-- ==== Sys2Proof/Word.lean ====
section
/-! DEFINITION. The word types of the block. Spec R7 (bit 0 is the least significant bit; every value unsigned),
R52 (one access moves one 16-bit cell or one 16-bit register) and R70 (a command word has 64 bits). -/

namespace Sys2Proof

/-- A 16-bit value: one packet-memory cell, one endpoint register, ISTR, DADDR, RESP (R7, R52). -/
abbrev Halfword := BitVec 16

/-- A 64-bit word of the host command stream: a command word or a payload word (R70, R72). -/
abbrev CmdWord := BitVec 64

/-- An 8-bit value: the OP and IDX fields of a command word, FAULT_CAUSE, a descriptor byte (R39, R70, R195). -/
abbrev Byte := BitVec 8

end Sys2Proof
end

