-- ==== Sys2Proof/Syntax.lean ====
section
/-! DEFINITION. The commands of the block: one constructor per row of the opcode map (R73), its operands as R71
assembles them. An operand keeps every value its field can hold: an endpoint index of 8 to 255 and a cell index of
512 to 65535 are assembled and fault at run time (R79). -/

namespace Sys2Proof

/-- One command. `ep` is the IDX field; `offset`, `base` and `size` are field A; `value` and `addr` are field V; the
payload of PMA_WRITE_BUF is the list of its halfwords, whose length is field B (R71, R72). -/
inductive Instr where
  /-- PMA_GET (R100). -/
  | pmaGet (offset : Halfword)
  /-- PMA_SET (R101). -/
  | pmaSet (offset value : Halfword)
  /-- PMA_WRITE_BUF (R102). -/
  | pmaWriteBuf (base : Halfword) (data : List Halfword)
  /-- BDT_TX_ADDR (R111). -/
  | bdtTxAddr (ep : Byte)
  /-- BDT_SET_TX_ADDR (R112). -/
  | bdtSetTxAddr (ep : Byte) (addr : Halfword)
  /-- BDT_TX_COUNT (R113). -/
  | bdtTxCount (ep : Byte)
  /-- BDT_RX_ADDR (R114). -/
  | bdtRxAddr (ep : Byte)
  /-- BDT_SET_RX_ADDR (R115). -/
  | bdtSetRxAddr (ep : Byte) (addr : Halfword)
  /-- BDT_RX_COUNT (R116). -/
  | bdtRxCount (ep : Byte)
  /-- ENCODE_RX_SIZE (R119). -/
  | encodeRxSize (size : Halfword)
  /-- BDT_SET_RX_SIZE (R120). -/
  | bdtSetRxSize (ep : Byte) (size : Halfword)
  /-- PMA_ALLOC (R131). -/
  | pmaAlloc (size : Halfword)
  /-- EP_READ (R141). -/
  | epRead (ep : Byte)
  /-- EP_WRITE (R142). -/
  | epWrite (ep : Byte) (value : Halfword)
  /-- EP_RESET_ALL (R145). -/
  | epResetAll
  /-- IRQ_DISPATCH (R161). -/
  | irqDispatch
  deriving DecidableEq, Repr

end Sys2Proof
end

