-- ==== Sys2Proof/WellFormed.lean ====
section
/-! DEFINITION. Which commands can be written as words. Every operand but one has the width of its field by its
type; the number of halfwords of PMA_WRITE_BUF must fit field B, 16 bits (R70, R72, R79: an operand that does not
fit its field is an assembly error). -/

namespace Sys2Proof

/-- The number of payload halfwords fits field B (R70). -/
def payloadFits (data : List Halfword) : Bool := data.length < 2 ^ 16

/-- A command that has an encoding (R79: "An operand that does not fit its field … is an assembly error"). -/
def Instr.wellFormed : Instr → Bool
  | .pmaGet _ => true
  | .pmaSet _ _ => true
  | .pmaWriteBuf _ data => payloadFits data
  | .bdtTxAddr _ => true
  | .bdtSetTxAddr _ _ => true
  | .bdtTxCount _ => true
  | .bdtRxAddr _ => true
  | .bdtSetRxAddr _ _ => true
  | .bdtRxCount _ => true
  | .encodeRxSize _ => true
  | .bdtSetRxSize _ _ => true
  | .pmaAlloc _ => true
  | .epRead _ => true
  | .epWrite _ _ => true
  | .epResetAll => true
  | .irqDispatch => true

end Sys2Proof
end

