-- ==== Sys2Proof/Decode.lean ====
section
/-! DEFINITION. Decoding (R70 to R78), total on every list of 64-bit words and rejecting by name, and the encoder
written from the same tables. The check of the endpoint index (EP_RANGE) is not part of decoding here: it is the
first check of the command's meaning (R76, R140), so a decoded command keeps its out-of-range index. -/

namespace Sys2Proof

/-- The sixteen rows of the opcode map (R73). -/
inductive Opcode where
  | pmaGet | pmaSet | pmaWriteBuf | bdtTxAddr | bdtSetTxAddr | bdtTxCount | bdtRxAddr | bdtSetRxAddr | bdtRxCount
  | encodeRxSize | bdtSetRxSize | pmaAlloc | epRead | epWrite | epResetAll | irqDispatch
  deriving DecidableEq, Repr

/-- The OP byte of a row (R73). -/
def opcodeByte : Opcode → Byte
  | .pmaGet => 0x01
  | .pmaSet => 0x02
  | .pmaWriteBuf => 0x03
  | .bdtTxAddr => 0x04
  | .bdtSetTxAddr => 0x05
  | .bdtTxCount => 0x06
  | .bdtRxAddr => 0x07
  | .bdtSetRxAddr => 0x08
  | .bdtRxCount => 0x09
  | .encodeRxSize => 0x0A
  | .bdtSetRxSize => 0x0B
  | .pmaAlloc => 0x0C
  | .epRead => 0x10
  | .epWrite => 0x11
  | .epResetAll => 0x12
  | .irqDispatch => 0x20

/-- The row an OP byte selects; every other value is illegal (R73, R75). -/
def opcodeOfByte (op : Byte) : Option Opcode :=
  match op.toNat with
  | 0x01 => some .pmaGet
  | 0x02 => some .pmaSet
  | 0x03 => some .pmaWriteBuf
  | 0x04 => some .bdtTxAddr
  | 0x05 => some .bdtSetTxAddr
  | 0x06 => some .bdtTxCount
  | 0x07 => some .bdtRxAddr
  | 0x08 => some .bdtSetRxAddr
  | 0x09 => some .bdtRxCount
  | 0x0A => some .encodeRxSize
  | 0x0B => some .bdtSetRxSize
  | 0x0C => some .pmaAlloc
  | 0x10 => some .epRead
  | 0x11 => some .epWrite
  | 0x12 => some .epResetAll
  | 0x20 => some .irqDispatch
  | _ => none

/-- Which of the four operand fields a command uses; the others are reserved (R73 column "uses", R74). -/
structure Uses where
  idx : Bool
  a : Bool
  b : Bool
  v : Bool
  deriving DecidableEq, Repr

/-- The "uses" column of the opcode map (R73). -/
def opcodeUses : Opcode → Uses
  | .pmaGet => ⟨false, true, false, false⟩
  | .pmaSet => ⟨false, true, false, true⟩
  | .pmaWriteBuf => ⟨false, true, true, false⟩
  | .bdtTxAddr => ⟨true, false, false, false⟩
  | .bdtSetTxAddr => ⟨true, false, false, true⟩
  | .bdtTxCount => ⟨true, false, false, false⟩
  | .bdtRxAddr => ⟨true, false, false, false⟩
  | .bdtSetRxAddr => ⟨true, false, false, true⟩
  | .bdtRxCount => ⟨true, false, false, false⟩
  | .encodeRxSize => ⟨false, true, false, false⟩
  | .bdtSetRxSize => ⟨true, true, false, false⟩
  | .pmaAlloc => ⟨false, true, false, false⟩
  | .epRead => ⟨true, false, false, false⟩
  | .epWrite => ⟨true, false, false, true⟩
  | .epResetAll => ⟨false, false, false, false⟩
  | .irqDispatch => ⟨false, false, false, false⟩

/-- Field OP, bits 63:56 (R70). -/
def fieldOp (w : CmdWord) : Byte := w.extractLsb' 56 8

/-- Field IDX, bits 55:48 (R70). -/
def fieldIdx (w : CmdWord) : Byte := w.extractLsb' 48 8

/-- Field A, bits 47:32 (R70). -/
def fieldA (w : CmdWord) : Halfword := w.extractLsb' 32 16

/-- Field B, bits 31:16 (R70). -/
def fieldB (w : CmdWord) : Halfword := w.extractLsb' 16 16

/-- Field V, bits 15:0 (R70). -/
def fieldV (w : CmdWord) : Halfword := w.extractLsb' 0 16

/-- Every field the row does not use is zero (R74). -/
def reservedZero (u : Uses) (w : CmdWord) : Bool :=
  (u.idx || fieldIdx w == 0) && (u.a || fieldA w == 0) && (u.b || fieldB w == 0) && (u.v || fieldV w == 0)

/-- P = ⌈LEN / 4⌉ payload words for PMA_WRITE_BUF, none for any other row (R72, R78). -/
def payloadWords (op : Opcode) (w : CmdWord) : Nat :=
  match op with
  | .pmaWriteBuf => ((fieldB w).toNat + 3) / 4
  | _ => 0

/-- The four halfwords of a payload word, the first in the least significant bits (R72). -/
def wordHalfwords (w : CmdWord) : List Halfword :=
  [w.extractLsb' 0 16, w.extractLsb' 16 16, w.extractLsb' 32 16, w.extractLsb' 48 16]

/-- `d[0..n-1]` of R72; the halfwords of the last payload word beyond `n` are ignored. -/
def unpackHalfwords (n : Nat) (ws : List CmdWord) : List Halfword :=
  (ws.flatMap wordHalfwords).take n

/-- The command a legal row makes of its word and payload words (R71, R72). -/
def assembleInstr (op : Opcode) (w : CmdWord) (payload : List CmdWord) : Instr :=
  match op with
  | .pmaGet => .pmaGet (fieldA w)
  | .pmaSet => .pmaSet (fieldA w) (fieldV w)
  | .pmaWriteBuf => .pmaWriteBuf (fieldA w) (unpackHalfwords (fieldB w).toNat payload)
  | .bdtTxAddr => .bdtTxAddr (fieldIdx w)
  | .bdtSetTxAddr => .bdtSetTxAddr (fieldIdx w) (fieldV w)
  | .bdtTxCount => .bdtTxCount (fieldIdx w)
  | .bdtRxAddr => .bdtRxAddr (fieldIdx w)
  | .bdtSetRxAddr => .bdtSetRxAddr (fieldIdx w) (fieldV w)
  | .bdtRxCount => .bdtRxCount (fieldIdx w)
  | .encodeRxSize => .encodeRxSize (fieldA w)
  | .bdtSetRxSize => .bdtSetRxSize (fieldIdx w) (fieldA w)
  | .pmaAlloc => .pmaAlloc (fieldA w)
  | .epRead => .epRead (fieldIdx w)
  | .epWrite => .epWrite (fieldIdx w) (fieldV w)
  | .epResetAll => .epResetAll
  | .irqDispatch => .irqDispatch

/-- Why no command was read. -/
inductive DecodeError where
  /-- The stream holds no further word. -/
  | noCommand
  /-- R75: the opcode is not in the map. -/
  | illegalCommand (op : Byte)
  /-- R74: a reserved field is nonzero; `len` is the command's length in words (R78). -/
  | reservedNonzero (op : Byte) (len : Nat)
  /-- R72: the stream ends before all payload words of a PMA_WRITE_BUF are present. -/
  | payloadMissing
  deriving DecidableEq, Repr

/-- What decoding answers: a command and its length in words (R78), or why there is none. -/
inductive Decoded where
  | instr (i : Instr) (len : Nat)
  | reject (e : DecodeError)
  deriving DecidableEq, Repr

/-- R76's first two checks, then R72's payload, on the words from the stream position on. The check of reserved
fields needs the command word alone, so it comes before the question whether the payload is there; the range check of a
PMA_WRITE_BUF belongs to its meaning and comes after it, so that a word out of range with its payload missing is held
(R72) and does not fault PMA_RANGE. Both are the model's choice (assumption 5). -/
def decode : List CmdWord → Decoded
  | [] => .reject .noCommand
  | w :: rest =>
    match opcodeOfByte (fieldOp w) with
    | none => .reject (.illegalCommand (fieldOp w))
    | some op =>
      if reservedZero (opcodeUses op) w then
        if payloadWords op w ≤ rest.length then
          .instr (assembleInstr op w (rest.take (payloadWords op w))) (1 + payloadWords op w)
        else .reject .payloadMissing
      else .reject (.reservedNonzero (fieldOp w) (1 + payloadWords op w))

/-! ## The encoder -/

/-- `word = OP << 56 | IDX << 48 | A << 32 | B << 16 | V` (R70), written as the concatenation of the five fields. -/
def commandWord (op : Opcode) (idx : Byte) (a b v : Halfword) : CmdWord :=
  opcodeByte op ++ idx ++ a ++ b ++ v

/-- One payload word from four halfwords, `a` the first (R72). -/
def payloadWord (a b c d : Halfword) : CmdWord := d ++ c ++ b ++ a

/-- The payload words of a list of halfwords, the last word filled with zeros (R72). -/
def packHalfwords : List Halfword → List CmdWord
  | [] => []
  | [a] => [payloadWord a 0 0 0]
  | [a, b] => [payloadWord a b 0 0]
  | [a, b, c] => [payloadWord a b c 0]
  | a :: b :: c :: d :: rest => payloadWord a b c d :: packHalfwords rest

/-- The words of a well-formed command (R70, R72, R73, R79). -/
def encode : Instr → List CmdWord
  | .pmaGet offset => [commandWord .pmaGet 0 offset 0 0]
  | .pmaSet offset value => [commandWord .pmaSet 0 offset 0 value]
  | .pmaWriteBuf base data =>
    commandWord .pmaWriteBuf 0 base (BitVec.ofNat 16 data.length) 0 :: packHalfwords data
  | .bdtTxAddr ep => [commandWord .bdtTxAddr ep 0 0 0]
  | .bdtSetTxAddr ep addr => [commandWord .bdtSetTxAddr ep 0 0 addr]
  | .bdtTxCount ep => [commandWord .bdtTxCount ep 0 0 0]
  | .bdtRxAddr ep => [commandWord .bdtRxAddr ep 0 0 0]
  | .bdtSetRxAddr ep addr => [commandWord .bdtSetRxAddr ep 0 0 addr]
  | .bdtRxCount ep => [commandWord .bdtRxCount ep 0 0 0]
  | .encodeRxSize size => [commandWord .encodeRxSize 0 size 0 0]
  | .bdtSetRxSize ep size => [commandWord .bdtSetRxSize ep size 0 0]
  | .pmaAlloc size => [commandWord .pmaAlloc 0 size 0 0]
  | .epRead ep => [commandWord .epRead ep 0 0 0]
  | .epWrite ep value => [commandWord .epWrite ep 0 0 value]
  | .epResetAll => [commandWord .epResetAll 0 0 0 0]
  | .irqDispatch => [commandWord .irqDispatch 0 0 0 0]

/-! ## The opcode table's numbering of bits -/

/-- How many words the command that begins with `w` has (R78); one for an illegal opcode. -/
def commandLength (w : CmdWord) : Nat :=
  match opcodeOfByte (fieldOp w) with
  | none => 1
  | some op => 1 + payloadWords op w

/-- The words of the instruction whose bits are `w`, numbered from bit 0 of the first word on; every bit at `nbits`
and above is 0, and payload words are as many as the first word asks for. -/
def tableWords (nbits w : Nat) : List CmdWord :=
  let bits := w % 2 ^ nbits
  (List.range (commandLength (BitVec.ofNat 64 bits))).map fun j => BitVec.ofNat 64 (bits >>> (64 * j))

/-- The command the decoder reads from the table word `w` of `nbits` bits; `none` where it refuses. -/
def decodeTableWord (nbits w : Nat) : Option Instr :=
  match decode (tableWords nbits w) with
  | .instr i _ => some i
  | .reject _ => none

end Sys2Proof
end

