-- ==== Sys2Proof/Config.lean ====
section
/-! DEFINITION. The parameters of R6 that are fixed numbers, the bit positions of the endpoint-register and ISTR fields
among them, the free values (R9's `draw()` and the open parameter RX_SIZE_UNIT), and the types of the parameters a state
carries: CTX and the event handler's descriptor.

The two Boolean parameters TX_CHECK_FIXED and IRQ_AUTO, and CTX, may be changed by the reader's configuration (R6);
they stand in the state's `params` (Machine/State.lean), so that a statement about every state holds for every
choice of them. -/

namespace Sys2Proof

namespace Config

/-- PMA_SIZE: 16-bit cells of the packet memory; also "the full arena size" (R6, R21). -/
@[simp] abbrev pmaSize : Nat := 512

/-- NUM_EP: endpoints, BDT entries, endpoint registers (R6, R26). -/
@[simp] abbrev numEp : Nat := 8

/-- BDT_STRIDE: cells from one BDT entry to the next (R6, R22). -/
@[simp] abbrev bdtStride : Nat := 8

/-- OFF_TX_ADDR (R6, R110). -/
@[simp] abbrev offTxAddr : Nat := 0

/-- OFF_TX_COUNT (R6, R110). -/
@[simp] abbrev offTxCount : Nat := 2

/-- OFF_RX_ADDR (R6, R110). -/
@[simp] abbrev offRxAddr : Nat := 4

/-- OFF_RX_COUNT (R6, R110). -/
@[simp] abbrev offRxCount : Nat := 6

/-- BDT_END: the first cell after the buffer descriptor table (R6, R22, R25). -/
@[simp] abbrev bdtEnd : Nat := 64

/-- RX_SMALL_MAX: the largest size in block-of-2 mode (R6, R117). -/
@[simp] abbrev rxSmallMax : Nat := 62

/-- RX_MAX: the largest encodable RX size (R6, R117). -/
@[simp] abbrev rxMax : Nat := 512

/-- RX_BLOCK: the block size of the large mode (R6, R118). -/
@[simp] abbrev rxBlock : Nat := 32

/-- EP_POWER_ON: the power-on value of every endpoint register (R6, R41). -/
@[simp] abbrev epPowerOn : Halfword := 0x0000

/-- PeriphWritable: the cells the peripheral's move P4a may write (R6, R212); P4b writes the low ten bits of the
eight RX count fields besides. -/
abbrev periphWritable (k : Nat) : Prop := bdtEnd ≤ k ∧ k < pmaSize

/-! ### EPnR field positions (R6, R27, D12): every definition that reads or writes a field of an endpoint register
takes its position from here (assumption 10) -/

/-- CTR_RX, one bit. -/
@[simp] abbrev eprCtrRx : Nat := 15

/-- DTOG_RX, one bit. -/
@[simp] abbrev eprDtogRx : Nat := 14

/-- STAT_RX, two bits: its lower bit. -/
@[simp] abbrev eprStatRx : Nat := 12

/-- SETUP, one bit. -/
@[simp] abbrev eprSetup : Nat := 11

/-- EP_TYPE, two bits: its lower bit. -/
@[simp] abbrev eprEpType : Nat := 9

/-- EP_KIND, one bit. -/
@[simp] abbrev eprEpKind : Nat := 8

/-- CTR_TX, one bit. -/
@[simp] abbrev eprCtrTx : Nat := 7

/-- DTOG_TX, one bit. -/
@[simp] abbrev eprDtogTx : Nat := 6

/-- STAT_TX, two bits: its lower bit. -/
@[simp] abbrev eprStatTx : Nat := 4

/-- EA, four bits: its lowest bit. -/
@[simp] abbrev eprEa : Nat := 0

/-! ### ISTR field positions (R6, R31, D13), a flag's as the 4-bit position that CLR holds (R37) -/

/-- CTR. -/
@[simp] abbrev istrCtr : BitVec 4 := 15

/-- OTHER14. -/
@[simp] abbrev istrOther14 : BitVec 4 := 14

/-- ERR. -/
@[simp] abbrev istrErr : BitVec 4 := 13

/-- WKUP. -/
@[simp] abbrev istrWkup : BitVec 4 := 12

/-- SUSP. -/
@[simp] abbrev istrSusp : BitVec 4 := 11

/-- RESET. -/
@[simp] abbrev istrReset : BitVec 4 := 10

/-- SOF. -/
@[simp] abbrev istrSof : BitVec 4 := 9

/-- OTHER8. -/
@[simp] abbrev istrOther8 : BitVec 4 := 8

/-- FLAGS, the eight flags together: its lowest bit. -/
@[simp] abbrev istrFlags : Nat := 8

/-- DIR, one bit. -/
@[simp] abbrev istrDir : Nat := 4

/-- EP_ID, four bits: its lowest bit. -/
@[simp] abbrev istrEpId : Nat := 0

/-! ### Other values of general knowledge (93_implementation_defined.md, part 2) -/

/-- The byte count the peripheral writes: the low bits of a count field (R24, R212 P4b; K6). -/
@[simp] abbrev countWidth : Nat := 10

/-- The power-on value of ISTR (R41; K9). -/
@[simp] abbrev istrPowerOn : Halfword := 0x0000

/-- The power-on value of DADDR (R41; K7). -/
@[simp] abbrev daddrPowerOn : Halfword := 0x0000

/-- `bLength` of a device descriptor (R195; K12). -/
@[simp] abbrev descriptorLength : Byte := 18

/-- `bDescriptorType` of a device descriptor (R195; K12). -/
@[simp] abbrev descriptorType : Byte := 1

/-- FREE VALUE (R9 `draw()`, R41, R146): what cell `cell` holds after the draw number `epoch` (0: power-on; every
later power-on reset or `ResetAll` is one more) until it is written. No body: nothing can be proved about its value.
Assumption 1. -/
opaque drawCell (epoch cell : Nat) : Halfword

end Config

/-- The unit of the size given to `set_rx_size` and `encode_rx_size` (R6 RX_SIZE_UNIT, D40). -/
inductive SizeUnit where
  | byte
  | halfword
  deriving DecidableEq, Repr, Inhabited

/-- FREE VALUE (R6): RX_SIZE_UNIT is OPEN. No rule of the block depends on it, and no definition here reads it.
Assumption 12. -/
opaque Config.rxSizeUnit : SizeUnit

/-- CTX: the scheduler's resource-context token (R6, R37, D21). Opaque: the block copies it and never looks inside;
two tokens are the same or not, which is all its number says. -/
structure Ctx where
  token : Nat
  deriving DecidableEq, Repr

/-- The device descriptor the event handler answers with (R195): the fields after the two fixed header bytes
`bLength` = 18 and `bDescriptorType` = 1. Interface data; no rule of the block reads it (R169, R190). -/
structure DeviceDescriptor where
  bcdUSB : BitVec 16
  bDeviceClass : Byte
  bDeviceSubClass : Byte
  bDeviceProtocol : Byte
  bMaxPacketSize0 : Byte
  idVendor : BitVec 16
  idProduct : BitVec 16
  bcdDevice : BitVec 16
  iManufacturer : Byte
  iProduct : Byte
  iSerialNumber : Byte
  bNumConfigurations : Byte
  deriving DecidableEq, Repr

end Sys2Proof
end

