-- ==== Sys2Proof/Machine/State.lean ====
section
/-! DEFINITION. The block's state Σ (R20) with the host command stream (R38), the parameters R6 leaves to the
reader's configuration, and the model's own bookkeeping: the draw counter of the free values (R9) and the agenda of
the environment's choices (R5). Plain data throughout. -/

namespace Sys2Proof.Machine

/-- The dispatcher's states (R37). -/
inductive Fsm where
  | idle | resetAct | ctrEval | callWait | clear | fault
  deriving DecidableEq, Repr

/-- The eight flags ISTR[15:8] (R31): the six the dispatcher recognises, and OTHER14 and OTHER8, which it does not. -/
inductive IstrFlag where
  | ctr | other14 | err | wkup | susp | reset | sof | other8
  deriving DecidableEq, Repr

/-- The block's fault codes (R201). -/
inductive FaultCode where
  | rxSizeOdd | rxSizeTooLarge | rxSizeNotMult32 | allocExhausted | ctrNoDirection | noRecognizedFlag
  | epRange | pmaRange | illegalCommand | reservedNonzero
  deriving DecidableEq, Repr

/-- The events of a run's history (R11). -/
inductive Event where
  /-- A command wrote RESP. -/
  | resp (v : Halfword)
  /-- The dispatcher called the event handler with a resource context (R168). -/
  | handlerCall (ctx : Ctx)
  /-- The handler answered; the event carries its static descriptor (R169), which the block discards. -/
  | handlerReturn (d : DeviceDescriptor)
  /-- The dispatcher cleared an ISTR flag (R170). -/
  | cleared (f : IstrFlag)
  /-- The block faulted (R203). -/
  | fault (code : FaultCode) (info : Halfword)
  deriving DecidableEq, Repr

/-- The peripheral's moves (R212). What no constructor names the peripheral never writes (P5). -/
inductive PeriphMove where
  /-- P1 `SetFlag(j)`, one of the eight flags. -/
  | setFlag (f : IstrFlag)
  /-- P2 `SetIdDir(v)`: ISTR[7:0]. -/
  | setIdDir (v : Byte)
  /-- P3a `RxDone(i, s)`. -/
  | rxDone (i : Fin 8) (setup : Bool)
  /-- P3b `TxDone(i)`. -/
  | txDone (i : Fin 8)
  /-- P3c `SetState(i, d)`: the toggle fields. -/
  | setState (i : Fin 8) (d : Halfword)
  /-- P4a `WriteCell(k, v)`; a move only for the cells of `Config.periphWritable`. -/
  | writeCell (k : Nat) (v : Halfword)
  /-- P4b `WriteRxCount(e, c)`: bits [9:0] of the RX count field. -/
  | writeRxCount (e : Fin 8) (c : BitVec Config.countWidth)
  deriving DecidableEq, Repr

/-- Whose step comes next, as the environment chooses (R5: "any enabled step of any agent may be taken next"). -/
inductive Turn where
  /-- The block: one dispatcher step, or the command at the head of the stream (R10). -/
  | block
  /-- An automatic activation of the dispatcher (R209, way 2). -/
  | activation
  /-- The event handler's answer (R169, R214). -/
  | handler
  /-- A move of the peripheral (R212). -/
  | peripheral (m : PeriphMove)
  /-- The power-on reset, which starts a run again (R230, R231). -/
  | powerOn
  deriving DecidableEq, Repr

/-- The parameters a reader's configuration may change (R6) and the event handler's static descriptor (R214). No
step writes them. -/
structure Params where
  /-- TX_CHECK_FIXED (R167). -/
  txCheckFixed : Bool
  /-- IRQ_AUTO (R209). -/
  irqAuto : Bool
  /-- CTX, the resource context handed to an activation (R161, R209). -/
  ctx : Ctx
  /-- The "statically-allocated, immutable 18-byte descriptor" of the event handler (R214). -/
  descriptor : DeviceDescriptor
  deriving DecidableEq, Repr

/-- The cells of the packet memory whose value is known, by cell index; a cell that is not listed holds the free
value of the last draw (R21, R41, R146; assumption 2). The unit is the 16-bit cell: the spec forbids a byte view
(R53). -/
abbrev Memory := List (Nat × Halfword)

/-- The canonical form: cell indices strictly rising, all inside the packet memory. An entry is a known value and an
unlisted cell is a draw, so no entry is what an unlisted cell reads as (assumption 2). -/
abbrev Memory.wf (m : Memory) : Prop :=
  m.Pairwise (fun x y => x.1 < y.1) ∧ ∀ e ∈ m, e.1 < Config.pmaSize

/-- Σ of R20, the host command stream and its position (R38), the parameters (R6), and the model's own `drawEpoch`
and `agenda`. -/
structure State where
  /-- PMA, the known cells (R21). -/
  pma : Memory
  /-- MODEL'S OWN: how many draws of the packet memory there have been since the first power-on (R9). -/
  drawEpoch : Nat
  /-- EPR[0..7] (R26). -/
  epr : Vector Halfword 8
  /-- ISTR (R30). -/
  istr : Halfword
  /-- DADDR, opaque (R34). -/
  daddr : Halfword
  /-- RESP (R36). -/
  resp : Halfword
  /-- FSM (R37). -/
  fsm : Fsm
  /-- SNAPV, the snapshot of ISTR taken at activation (R37). -/
  snapv : Halfword
  /-- CLR, the bit position the clear step will clear (R37). -/
  clr : BitVec 4
  /-- CTXL, the resource context of the current activation; none at power-on (R37, R41). -/
  ctxl : Option Ctx
  /-- FAULT_CAUSE (R39). -/
  faultCause : Byte
  /-- FAULT_INFO (R39). -/
  faultInfo : Halfword
  /-- The event history, oldest first (R11). -/
  events : List Event
  /-- The host command stream, a parameter of the run (R5). -/
  stream : List CmdWord
  /-- The stream position: how many words have been consumed (R38). -/
  pos : Nat
  /-- The parameters of R6. -/
  params : Params
  /-- MODEL'S OWN: the environment's choice of the next turns (R5); when it is empty the step takes the default
  order of Machine/Agents.lean (assumption 3). -/
  agenda : List Turn
  deriving DecidableEq, Repr

/-- Why the machine has no step: the three ends of a run (R205). The block's own faults (R201) are not here: raising
one is a step to a next state, FSM = FAULT. -/
inductive Fault where
  /-- R205 "completed": the stream is consumed, FSM is IDLE and no automatic activation is enabled. Raised by the
  default turn of the step. Safe: the spec gives no step here, and the model takes none. -/
  | completed
  /-- R205 "halted": FSM is FAULT. Raised by the default turn of the step. Safe: the spec gives no step here. -/
  | halted
  /-- R205 "stuck": a PMA_WRITE_BUF whose payload words are missing, with no automatic activation enabled (R72).
  Raised by the default turn of the step. Safe: the spec gives no step here. -/
  | stuck
  deriving DecidableEq, Repr

/-- Why an instruction has no meaning. -/
inductive Refusal where
  /-- Raised by an arm of `exec` whose instruction has no meaning yet; no arm is in this case. Safe. -/
  | notModelled (mnemonic : String)
  deriving DecidableEq, Repr

/-- A descriptor with every field zero, the model's own value for the handler's static descriptor at reset
(assumption 6). -/
def zeroDescriptor : DeviceDescriptor :=
  { bcdUSB := 0, bDeviceClass := 0, bDeviceSubClass := 0, bDeviceProtocol := 0, bMaxPacketSize0 := 0, idVendor := 0,
    idProduct := 0, bcdDevice := 0, iManufacturer := 0, iProduct := 0, iSerialNumber := 0, bNumConfigurations := 0 }

/-- The default parameters: TX_CHECK_FIXED = false and IRQ_AUTO = true are R6's; the token and the descriptor are the
model's own (assumption 6). -/
def defaultParams : Params :=
  { txCheckFixed := false, irqAuto := true, ctx := ⟨0⟩, descriptor := zeroDescriptor }

/-- The block right after the power-on reset (R41, R231), with an empty host stream: a program is loaded from outside
(assumption 4). -/
def State.reset : State :=
  { pma := [], drawEpoch := 0, epr := Vector.replicate 8 Config.epPowerOn, istr := Config.istrPowerOn,
    daddr := Config.daddrPowerOn, resp := 0x0000, fsm := .idle, snapv := 0, clr := 0, ctxl := none, faultCause := 0, faultInfo := 0, events := [],
    stream := [], pos := 0, params := defaultParams, agenda := [] }

end Sys2Proof.Machine
end

