-- ==== Sys2Proof/Machine/Flags.lean ====
section
/-! DEFINITION. Every field and flag computation of the spec: the codes of the dispatcher's states and of the faults,
the endpoint-register fields and their write kinds (R27, R28, R143, R144), and the ISTR flags, their selection, their
clearing and the interrupt line (R31, R32, R40, R163). -/

namespace Sys2Proof.Machine

/-- The 3-bit code of a dispatcher state (R37); 5 and 6 are never reached. -/
def fsmCode : Fsm → BitVec 3
  | .idle => 0
  | .resetAct => 1
  | .ctrEval => 2
  | .callWait => 3
  | .clear => 4
  | .fault => 7

/-- The number a fault records in FAULT_CAUSE (R201). -/
def faultByte : FaultCode → Byte
  | .rxSizeOdd => 0x11
  | .rxSizeTooLarge => 0x12
  | .rxSizeNotMult32 => 0x13
  | .allocExhausted => 0x14
  | .ctrNoDirection => 0x21
  | .noRecognizedFlag => 0x22
  | .epRange => 0x31
  | .pmaRange => 0x32
  | .illegalCommand => 0x33
  | .reservedNonzero => 0x34

/-! ## Endpoint-register fields -/

/-- A halfword with the one bit `n` set. -/
def bitMask (n : Nat) : Halfword := 1 <<< n

/-- A halfword with the `width` bits from `low` on set. -/
def fieldMask (low width : Nat) : Halfword := BitVec.ofNat 16 (2 ^ width - 1) <<< low

/-- CTR_RX, bit 15 (R27). -/
def ctrRx (v : Halfword) : Bool := v.getLsbD Config.eprCtrRx

/-- DTOG_RX, bit 14 (R27). -/
def dtogRx (v : Halfword) : Bool := v.getLsbD Config.eprDtogRx

/-- STAT_RX, bits 13:12 (R27). -/
def statRx (v : Halfword) : BitVec 2 := v.extractLsb' Config.eprStatRx 2

/-- SETUP, bit 11 (R27). -/
def setupFlag (v : Halfword) : Bool := v.getLsbD Config.eprSetup

/-- EP_TYPE, bits 10:9 (R27). -/
def epType (v : Halfword) : BitVec 2 := v.extractLsb' Config.eprEpType 2

/-- EP_KIND, bit 8 (R27). -/
def epKind (v : Halfword) : Bool := v.getLsbD Config.eprEpKind

/-- CTR_TX, bit 7 (R27). -/
def ctrTx (v : Halfword) : Bool := v.getLsbD Config.eprCtrTx

/-- DTOG_TX, bit 6 (R27). -/
def dtogTx (v : Halfword) : Bool := v.getLsbD Config.eprDtogTx

/-- STAT_TX, bits 5:4 (R27). -/
def statTx (v : Halfword) : BitVec 2 := v.extractLsb' Config.eprStatTx 2

/-- EA, bits 3:0 (R27). -/
def endpointAddr (v : Halfword) : BitVec 4 := v.extractLsb' Config.eprEa 4

/-- The values of STAT_RX and STAT_TX (R29). -/
inductive Stat where
  | disabled | stall | nak | valid
  deriving DecidableEq, Repr

/-- A STAT field's value by name (R29). -/
def statOfBits (b : BitVec 2) : Stat :=
  match b.toNat with
  | 0 => .disabled
  | 1 => .stall
  | 2 => .nak
  | _ => .valid

/-- The values of EP_TYPE (R29). -/
inductive TransferType where
  | bulk | control | iso | interrupt
  deriving DecidableEq, Repr

/-- An EP_TYPE field's value by name (R29). -/
def transferTypeOfBits (b : BitVec 2) : TransferType :=
  match b.toNat with
  | 0 => .bulk
  | 1 => .control
  | 2 => .iso
  | _ => .interrupt

/-- RC_MASK, 0x8080: CTR_RX and CTR_TX, clear-only (R143). -/
def rcMask : Halfword := bitMask Config.eprCtrRx ||| bitMask Config.eprCtrTx

/-- T_MASK, 0x7070: DTOG_RX, STAT_RX, DTOG_TX, STAT_TX, toggled by a written 1 (R143). -/
def toggleMask : Halfword :=
  bitMask Config.eprDtogRx ||| fieldMask Config.eprStatRx 2 ||| bitMask Config.eprDtogTx |||
    fieldMask Config.eprStatTx 2

/-- RW_MASK, 0x070F: EP_TYPE, EP_KIND, EA, plain (R143). -/
def plainMask : Halfword :=
  fieldMask Config.eprEpType 2 ||| bitMask Config.eprEpKind ||| fieldMask Config.eprEa 4

/-- R_MASK, 0x0800: SETUP, read-only (R143). -/
def readOnlyMask : Halfword := bitMask Config.eprSetup

/-- `EPWrite(o, w)`: what a host write of `w` makes of the register value `o` (R28, R143). -/
def epWriteValue (o w : Halfword) : Halfword :=
  (o &&& w &&& rcMask) ||| ((o ^^^ w) &&& toggleMask) ||| (w &&& plainMask) ||| (o &&& readOnlyMask)

/-- `rmt(o, t)`: the word software writes to move a register from the value `o` it read toward `t` (R144). -/
def rmt (o t : Halfword) : Halfword :=
  (t &&& rcMask) ||| ((o ^^^ t) &&& toggleMask) ||| (t &&& plainMask)

/-! ## ISTR -/

/-- The bit position of a flag (R31). -/
def flagBit : IstrFlag → BitVec 4
  | .ctr => Config.istrCtr
  | .other14 => Config.istrOther14
  | .err => Config.istrErr
  | .wkup => Config.istrWkup
  | .susp => Config.istrSusp
  | .reset => Config.istrReset
  | .sof => Config.istrSof
  | .other8 => Config.istrOther8

/-- The eight flags, from bit 15 to bit 8 (R31). -/
def allFlags : List IstrFlag := [.ctr, .other14, .err, .wkup, .susp, .reset, .sof, .other8]

/-- The flag at a bit position; positions 7 to 0 hold no flag (R31). -/
def flagOfBit (b : BitVec 4) : Option IstrFlag := allFlags.find? fun f => flagBit f == b

/-- A flag of an ISTR value (R31). -/
def flagSet (v : Halfword) (f : IstrFlag) : Bool := v.getLsbD (flagBit f).toNat

/-- The flags the dispatcher recognises (R31, R163). -/
def recognised : IstrFlag → Bool
  | .ctr => true
  | .other14 => false
  | .err => true
  | .wkup => true
  | .susp => true
  | .reset => true
  | .sof => true
  | .other8 => false

/-- EP_ID, bits 3:0 (R31). -/
def epId (v : Halfword) : BitVec 4 := v.extractLsb' Config.istrEpId 4

/-- DIR, bit 4, which no rule reads (R31, R33). -/
def dir (v : Halfword) : Bool := v.getLsbD Config.istrDir

/-- `select(S)`: the highest-priority recognised flag of a snapshot, `none` for NONE (R163). -/
def select (v : Halfword) : Option IstrFlag :=
  if flagSet v .reset then some .reset
  else if flagSet v .ctr then some .ctr
  else if flagSet v .sof then some .sof
  else if flagSet v .wkup then some .wkup
  else if flagSet v .susp then some .susp
  else if flagSet v .err then some .err
  else none

/-- W, the word the clear step writes: all ones but bit `b` (R32). -/
def clearWord (b : BitVec 4) : Halfword := 0xFFFF &&& ~~~bitMask b.toNat

/-- FLAGS = ISTR[15:8] as a mask (R31); the other bits, ISTR[7:0], are the peripheral's alone (R32, R212 P2). -/
def flagsMask : Halfword := fieldMask Config.istrFlags 8

/-- `ISTRClear(b)`: bits 15:8 are ANDed with W, bits 7:0 are read-only (R32). -/
def istrClear (v : Halfword) (b : BitVec 4) : Halfword :=
  (v &&& clearWord b &&& flagsMask) ||| (v &&& ~~~flagsMask)

/-- `IRQ_LINE = (ISTR[15:8] ≠ 0)` (R40, R208). -/
def irqLine (v : Halfword) : Bool := v.extractLsb' Config.istrFlags 8 != 0

/-- The second test of the CTR branch (R167). -/
def secondTest (txCheckFixed : Bool) (e : Halfword) : Bool :=
  if txCheckFixed then ctrTx e else ctrRx e

end Sys2Proof.Machine
end

