-- ==== Sys2Proof/Machine/Operands.lean ====
section
/-! DEFINITION. Every operand form: the endpoint index and its check (R140), the cell indices and their range checks
(R55, R102), the BDT fields (R22, R110), and the RX size with its check, its encoding and the encoding's inverse
(R117, R118, R121). -/

namespace Sys2Proof.Machine

/-- The endpoint register-file decoder: an index below NUM_EP names an endpoint, any other none (R140). -/
def endpointIndex (n : Nat) : Option (Fin 8) :=
  if h : n < 8 then some ⟨n, h⟩ else none

/-- A single cell index lies in the packet memory (R55, R100). -/
def cellInRange (k : Halfword) : Bool := k.toNat < Config.pmaSize

/-- The range `[base, base + n)` lies in the packet memory, computed without wrap (R8, R102). -/
def rangeInPma (base : Halfword) (n : Nat) : Bool := base.toNat + n ≤ Config.pmaSize

/-- The four fields of a BDT entry (R22). -/
inductive BdtField where
  | txAddr | txCount | rxAddr | rxCount
  deriving DecidableEq, Repr

/-- The cell offset of a field in its entry (R6, R110). -/
def fieldOffset : BdtField → Nat
  | .txAddr => Config.offTxAddr
  | .txCount => Config.offTxCount
  | .rxAddr => Config.offRxAddr
  | .rxCount => Config.offRxCount

/-- `bdt(ep, off) = 8·ep + off` (R110). -/
def bdtCell (ep : Fin 8) (f : BdtField) : Nat := ep.val * Config.bdtStride + fieldOffset f

/-- The cells of the 16 address fields, TX and RX of endpoints 0 to 7 in that order (R130). -/
def addressCells : List Nat :=
  (List.finRange 8).flatMap fun ep => [bdtCell ep .txAddr, bdtCell ep .rxAddr]

/-- `rx_size_check(size)`: the first constraint a size violates, `none` if it passes (R117). -/
def rxSizeCheck (size : Halfword) : Option FaultCode :=
  if size.toNat > Config.rxMax then some .rxSizeTooLarge
  else if size.toNat > Config.rxSmallMax ∧ size.toNat % Config.rxBlock ≠ 0 then some .rxSizeNotMult32
  else if size.toNat ≤ Config.rxSmallMax ∧ size.toNat % 2 ≠ 0 then some .rxSizeOdd
  else none

/-- `enc(size)` (R118): the block count in bits 14:10, bit 15 set in block-of-32 mode. -/
def encodeSize (size : Halfword) : Halfword :=
  if size.toNat > Config.rxSmallMax then
    (BitVec.ofNat 16 (size.toNat / Config.rxBlock - 1) <<< 10) ||| 0x8000
  else BitVec.ofNat 16 (size.toNat / 2) <<< 10

/-- `cap(v)`, the capacity an RX size field encodes (R121). The block never evaluates it; the premise WB3 does. -/
def sizeCapacity (v : Halfword) : Nat :=
  if v.getLsbD 15 then ((v.extractLsb' 10 5).toNat + 1) * Config.rxBlock else (v.extractLsb' 10 5).toNat * 2

end Sys2Proof.Machine
end

