-- ==== Sys2Proof/Machine/Ops.lean ====
section
/-! DEFINITION. The named operations over memory and registers: the primitives of R9 (`MemRead`, `MemWrite`, `EPR`,
`emit`, `draw`, `raise Fault`), the response (R36), the host stream (R38), fault entry (R203) and what leaves a fault,
the power-on reset (R205, R231), `ResetAll` (R146), and the guards the commands share (R76). -/

namespace Sys2Proof.Machine

/-! ## The packet memory -/

/-- The known value of a cell, `none` where the cell holds a draw. -/
def Memory.lookup : Memory → Nat → Option Halfword
  | [], _ => none
  | (k', v) :: rest, k => if k = k' then some v else Memory.lookup rest k

/-- List a value for a cell, keeping the canonical form. -/
def Memory.insert : Memory → Nat → Halfword → Memory
  | [], k, v => [(k, v)]
  | (k', v') :: rest, k, v =>
    if k < k' then (k, v) :: (k', v') :: rest
    else if k = k' then (k, v) :: rest
    else (k', v') :: Memory.insert rest k v

/-- `MemWrite(k, 1, v)` (R9). There is no cell outside the packet memory, so nothing is listed for one; every command
checks its range first (R55). -/
def Memory.write (m : Memory) (k : Nat) (v : Halfword) : Memory :=
  if k < Config.pmaSize then m.insert k v else m

/-- The cell writes of R102, `d[j]` to `k + j`, in order. -/
def Memory.writeList : Memory → Nat → List Halfword → Memory
  | m, _, [] => m
  | m, k, d :: ds => Memory.writeList (m.write k d) (k + 1) ds

/-- `MemRead(k, 1)` (R9): the known value of the cell, or its draw (R41). -/
def readCell (s : State) (k : Nat) : Halfword :=
  match s.pma.lookup k with
  | some v => v
  | none => Config.drawCell s.drawEpoch k

/-- `MemWrite(k, 1, v)` (R9). -/
def writeCell (k : Nat) (v : Halfword) (s : State) : State := { s with pma := s.pma.write k v }

/-- A sequence of cell writes (R102). -/
def writeCells (base : Nat) (data : List Halfword) (s : State) : State :=
  { s with pma := s.pma.writeList base data }

/-! ## Registers, the response and the event history -/

/-- `EPR[i]` (R9). -/
def readEpr (s : State) (i : Fin 8) : Halfword := s.epr[i]

/-- `EPR[i] <- v`, exactly (R9). -/
def setEpr (i : Fin 8) (v : Halfword) (s : State) : State := { s with epr := s.epr.set i v }

/-- `EPWrite(i, w)`: the host's write, field by field (R28, R142). -/
def hostWriteEpr (i : Fin 8) (w : Halfword) (s : State) : State :=
  setEpr i (epWriteValue (readEpr s i) w) s

/-- `emit E` (R9, R11). -/
def emit (e : Event) (s : State) : State := { s with events := s.events ++ [e] }

/-- `RESP <- v ; emit Resp(v)` (R36). -/
def respond (v : Halfword) (s : State) : State :=
  { s with resp := v, events := s.events ++ [.resp v] }

/-! ## The host command stream -/

/-- The words from the stream position on (R38). -/
def pending (s : State) : List CmdWord := s.stream.drop s.pos

/-- The position moves past `n` words, never past the end of the stream (R38, R78; assumption 5). -/
def consume (n : Nat) (s : State) : State := { s with pos := min (s.pos + n) s.stream.length }

/-- The words `ws` stand next in the stream, after those already consumed. -/
def loadWords (ws : List CmdWord) (s : State) : State :=
  { s with stream := s.stream.take s.pos ++ List.replicate (s.pos - s.stream.length) 0 ++ ws }

/-! ## Faults -/

/-- `Fault(code, info)`: fault entry (R203). Nothing else is written; a faulting command has been consumed by the
step that runs it. -/
def raiseFault (code : FaultCode) (info : Halfword) (s : State) : State :=
  { s with
    faultCause := faultByte code
    faultInfo := info
    fsm := .fault
    events := s.events ++ [.fault code info] }

/-- `PowerOn()` (R231), the only way out of FAULT (R205: there is no return from a fault). Every packet-memory cell is
drawn again; the host stream, the parameters and the agenda are not the block's (R5, R6). -/
def powerOn (s : State) : State :=
  { s with
    pma := []
    drawEpoch := s.drawEpoch + 1
    epr := Vector.replicate 8 Config.epPowerOn
    istr := Config.istrPowerOn
    daddr := Config.daddrPowerOn
    resp := 0x0000
    fsm := .idle
    snapv := 0
    clr := 0
    ctxl := none
    faultCause := 0
    faultInfo := 0
    events := []
    pos := 0 }

/-- `ResetAll()` (R146): every endpoint register at its power-on value, the 16 address fields zero, every other cell a
draw. -/
def resetAll (s : State) : State :=
  { s with
    epr := Vector.replicate 8 Config.epPowerOn
    drawEpoch := s.drawEpoch + 1
    pma := addressCells.foldl (fun m k => m.write k 0) [] }

/-! ## The checks the commands share -/

/-- R76's third check, R140: run `body` on the endpoint, or raise EP_RANGE with the offending index. -/
def withEndpoint (ep : Byte) (body : Fin 8 → State → State) (s : State) : State :=
  match endpointIndex ep.toNat with
  | some i => body i s
  | none => raiseFault .epRange (ep.setWidth 16) s

/-- R117's check: run `body`, or raise the size fault with the requested size. -/
def withRxSize (size : Halfword) (body : State → State) (s : State) : State :=
  match rxSizeCheck size with
  | none => body s
  | some code => raiseFault code size s

/-- R55's check: run `body` if the cells lie in the packet memory, or raise PMA_RANGE with the offending index. -/
def withRange (ok : Bool) (info : Halfword) (body : State → State) (s : State) : State :=
  if ok then body s else raiseFault .pmaRange info s

end Sys2Proof.Machine
end

