-- ==== Sys2Proof/Machine/Allocator.lean ====
section
/-! DEFINITION. The packet-memory allocator (spec 42_allocator.md). -/

namespace Sys2Proof.Machine

/-- The scan (R130): the smallest nonzero value of the 16 address fields, or PMA_SIZE if all are zero. -/
def lowestAllocated (s : State) : Nat :=
  ((addressCells.map fun k => (readCell s k).toNat).filter (· ≠ 0)).min?.getD Config.pmaSize

/-- PMA_ALLOC (R131): `low − size` on integers, without wrap (R8); nothing but RESP is written (R132). -/
def execPmaAlloc (size : Halfword) (s : State) : Host.Outcome State Fault Refusal :=
  .next
    (if (lowestAllocated s : Int) - size.toNat < Config.bdtEnd then raiseFault .allocExhausted size s
     else respond (BitVec.ofNat 16 (lowestAllocated s - size.toNat)) s)

end Sys2Proof.Machine
end

