-- ==== Sys2Proof/Machine/BdtAccess.lean ====
section
/-! DEFINITION. Buffer descriptor table access and the RX size encoding (spec 41_bdt_access.md). -/

namespace Sys2Proof.Machine

/-- `v <- MemRead(bdt(ep, f), 1) ; RESP <- v ; emit Resp(v)`, shared by the four getters. -/
def bdtGet (f : BdtField) (ep : Byte) (s : State) : State :=
  withEndpoint ep (fun i t => respond (readCell t (bdtCell i f)) t) s

/-- `MemWrite(bdt(ep, f), 1, v)`, shared by the setters. -/
def bdtSet (f : BdtField) (ep : Byte) (v : Halfword) (s : State) : State :=
  withEndpoint ep (fun i t => writeCell (bdtCell i f) v t) s

/-- BDT_TX_ADDR (R111). -/
def execBdtTxAddr (ep : Byte) (s : State) : Host.Outcome State Fault Refusal :=
  .next (bdtGet .txAddr ep s)

/-- BDT_SET_TX_ADDR (R112): the address is stored unchecked. -/
def execBdtSetTxAddr (ep : Byte) (addr : Halfword) (s : State) : Host.Outcome State Fault Refusal :=
  .next (bdtSet .txAddr ep addr s)

/-- BDT_TX_COUNT (R113): the whole cell. -/
def execBdtTxCount (ep : Byte) (s : State) : Host.Outcome State Fault Refusal :=
  .next (bdtGet .txCount ep s)

/-- BDT_RX_ADDR (R114). -/
def execBdtRxAddr (ep : Byte) (s : State) : Host.Outcome State Fault Refusal :=
  .next (bdtGet .rxAddr ep s)

/-- BDT_SET_RX_ADDR (R115): the address is stored unchecked. -/
def execBdtSetRxAddr (ep : Byte) (addr : Halfword) (s : State) : Host.Outcome State Fault Refusal :=
  .next (bdtSet .rxAddr ep addr s)

/-- BDT_RX_COUNT (R116): the whole cell. -/
def execBdtRxCount (ep : Byte) (s : State) : Host.Outcome State Fault Refusal :=
  .next (bdtGet .rxCount ep s)

/-- ENCODE_RX_SIZE (R119). -/
def execEncodeRxSize (size : Halfword) (s : State) : Host.Outcome State Fault Refusal :=
  .next (withRxSize size (respond (encodeSize size)) s)

/-- BDT_SET_RX_SIZE (R120): the endpoint is checked before the size (R206); the whole RX count cell is written. -/
def execBdtSetRxSize (ep : Byte) (size : Halfword) (s : State) : Host.Outcome State Fault Refusal :=
  .next (withEndpoint ep (fun i => withRxSize size (writeCell (bdtCell i .rxCount) (encodeSize size))) s)

end Sys2Proof.Machine
end

