-- ==== Sys2Proof/Machine/Dispatcher.lean ====
section
/-! DEFINITION. The control-transfer interrupt dispatcher (spec 44_dispatcher.md): the command IRQ_DISPATCH and the
steps of the finite-state machine, one definition per arrow's source state (R160). -/

namespace Sys2Proof.Machine

/-- The step goes on to CLEAR with the bit to clear (R160). -/
def toClear (b : BitVec 4) (s : State) : State := { s with clr := b, fsm := .clear }

/-- `SNAPV <- ISTR ; CTXL <- ctx ; FSM <- f` (R162). -/
def latch (ctx : Ctx) (f : Fsm) (s : State) : State :=
  { s with snapv := s.istr, ctxl := some ctx, fsm := f }

/-- `Activate(ctx)` (R162): one read of ISTR; with no recognised flag it traps and writes no latch (R171, R203). -/
def activate (ctx : Ctx) (s : State) : State :=
  match select s.istr with
  | some .reset => latch ctx .resetAct s
  | some .ctr => latch ctx .ctrEval s
  | some f => toClear (flagBit f) (latch ctx .clear s)
  | none => raiseFault .noRecognizedFlag s.istr s

/-- IRQ_DISPATCH (R161): the scheduler's activation, with CTX. -/
def execIrqDispatch (s : State) : Host.Outcome State Fault Refusal :=
  .next (activate s.params.ctx s)

/-- The step in RESET_ACT (R164). -/
def resetStep (s : State) : State := toClear (flagBit .reset) (resetAll s)

/-- `emit HandlerCall(CTXL) ; FSM <- CALL_WAIT` (R166, R168). An activation always set CTXL; with none there is no
context to call with and no event is recorded (assumption 8: no run reaches it). -/
def callHandler (s : State) : State :=
  match s.ctxl with
  | some ctx => { s with fsm := .callWait, events := s.events ++ [.handlerCall ctx] }
  | none => { s with fsm := .callWait }

/-- The decision of the CTR branch on the live endpoint register `e` (R166, R167, R172). -/
def decideCtr (e : Halfword) (s : State) : State :=
  if ctrRx e then
    if setupFlag e then callHandler s else toClear (flagBit .ctr) s
  else if secondTest s.params.txCheckFixed e then toClear (flagBit .ctr) s
  else raiseFault .ctrNoDirection ((epId s.snapv).setWidth 16) s

/-- The step in CTR_EVAL (R165, R166): EP_ID of the snapshot, checked, then one live read of that register. -/
def evalStep (s : State) : State :=
  match endpointIndex (epId s.snapv).toNat with
  | some i => decideCtr (readEpr s i) s
  | none => raiseFault .epRange ((epId s.snapv).setWidth 16) s

/-- The step in CLEAR (R170): clear bit CLR of the live ISTR, record which flag, go IDLE. A CLR that names no flag
(assumption 8: no run reaches it) clears nothing, since ISTR[7:0] is read-only (R32). -/
def clearStep (s : State) : State :=
  match flagOfBit s.clr with
  | some f => { s with istr := istrClear s.istr s.clr, events := s.events ++ [.cleared f], fsm := .idle }
  | none => { s with fsm := .idle }

end Sys2Proof.Machine
end

