-- ==== Sys2Proof/Machine/EndpointRegfile.lean ====
section
/-! DEFINITION. The endpoint register file (spec 43_endpoint_regfile.md). -/

namespace Sys2Proof.Machine

/-- EP_READ (R141). -/
def execEpRead (ep : Byte) (s : State) : Host.Outcome State Fault Refusal :=
  .next (withEndpoint ep (fun i t => respond (readEpr t i) t) s)

/-- EP_WRITE (R142). -/
def execEpWrite (ep : Byte) (value : Halfword) (s : State) : Host.Outcome State Fault Refusal :=
  .next (withEndpoint ep (fun i t => hostWriteEpr i value t) s)

/-- EP_RESET_ALL (R145). -/
def execEpResetAll (s : State) : Host.Outcome State Fault Refusal :=
  .next (resetAll s)

end Sys2Proof.Machine
end

