-- ==== Sys2Proof/Machine/PmaAccess.lean ====
section
/-! DEFINITION. Packet-memory raw access: PMA_GET, PMA_SET, PMA_WRITE_BUF (spec 40_pma_access.md). -/

namespace Sys2Proof.Machine

/-- PMA_GET (R100). -/
def execPmaGet (offset : Halfword) (s : State) : Host.Outcome State Fault Refusal :=
  .next (withRange (cellInRange offset) offset (fun t => respond (readCell t offset.toNat) t) s)

/-- PMA_SET (R101). -/
def execPmaSet (offset value : Halfword) (s : State) : Host.Outcome State Fault Refusal :=
  .next (withRange (cellInRange offset) offset (writeCell offset.toNat value) s)

/-- PMA_WRITE_BUF (R102, R103): the whole range is checked before any write; nothing else is. -/
def execPmaWriteBuf (base : Halfword) (data : List Halfword) (s : State) : Host.Outcome State Fault Refusal :=
  .next (withRange (rangeInPma base data.length) base (writeCells base.toNat data) s)

end Sys2Proof.Machine
end

