-- ==== Sys2Proof/Machine/Dispatch.lean ====
section
/-! DEFINITION. One arm per command: the command step of R9 and R10, after the word has been decoded and consumed. -/

namespace Sys2Proof.Machine

-- One command of the block, as one atomic step (R56).
def exec (i : Instr) (s : State) : Host.Outcome State Fault Refusal :=
  match i with
  | .pmaGet offset => Sys2Proof.Machine.execPmaGet offset s
  | .pmaSet offset value => Sys2Proof.Machine.execPmaSet offset value s
  | .pmaWriteBuf base data => Sys2Proof.Machine.execPmaWriteBuf base data s
  | .bdtTxAddr ep => Sys2Proof.Machine.execBdtTxAddr ep s
  | .bdtSetTxAddr ep addr => Sys2Proof.Machine.execBdtSetTxAddr ep addr s
  | .bdtTxCount ep => Sys2Proof.Machine.execBdtTxCount ep s
  | .bdtRxAddr ep => Sys2Proof.Machine.execBdtRxAddr ep s
  | .bdtSetRxAddr ep addr => Sys2Proof.Machine.execBdtSetRxAddr ep addr s
  | .bdtRxCount ep => Sys2Proof.Machine.execBdtRxCount ep s
  | .encodeRxSize size => Sys2Proof.Machine.execEncodeRxSize size s
  | .bdtSetRxSize ep size => Sys2Proof.Machine.execBdtSetRxSize ep size s
  | .pmaAlloc size => Sys2Proof.Machine.execPmaAlloc size s
  | .epRead ep => Sys2Proof.Machine.execEpRead ep s
  | .epWrite ep value => Sys2Proof.Machine.execEpWrite ep value s
  | .epResetAll => Sys2Proof.Machine.execEpResetAll s
  | .irqDispatch => Sys2Proof.Machine.execIrqDispatch s

end Sys2Proof.Machine
end

