-- ==== Sys2Proof/Machine/Environment.lean ====
section
/-! DEFINITION. The other agents: the peripheral's moves (R212), the event handler's answer (R169, R214) and the
automatic activation (R209). -/

namespace Sys2Proof.Machine

/-- P1 (R212): the flag becomes 1. -/
def setIstrFlag (f : IstrFlag) (v : Halfword) : Halfword := v ||| bitMask (flagBit f).toNat

/-- P2 (R212): ISTR[7:0] becomes `b`. -/
def setIdDir (b : Byte) (v : Halfword) : Halfword := (v &&& flagsMask) ||| b.setWidth 16

/-- P3a (R212): CTR_RX becomes 1, SETUP becomes `setup`. -/
def rxDoneValue (setup : Bool) (v : Halfword) : Halfword :=
  (v &&& ~~~readOnlyMask) ||| bitMask Config.eprCtrRx ||| (if setup then readOnlyMask else 0)

/-- P3b (R212): CTR_TX becomes 1. -/
def txDoneValue (v : Halfword) : Halfword := v ||| bitMask Config.eprCtrTx

/-- P3c (R212): the bits of T_MASK, 0x7070, become those of `d`. -/
def setStateValue (d v : Halfword) : Halfword := (v &&& ~~~toggleMask) ||| (d &&& toggleMask)

/-- P4b (R212): bits [9:0] become `c`. -/
def rxCountValue (c : BitVec Config.countWidth) (v : Halfword) : Halfword :=
  (v &&& ~~~fieldMask 0 Config.countWidth) ||| c.setWidth 16

/-- One move of the peripheral (R212). It writes directly, never through `EPWrite`. A `writeCell` outside
PeriphWritable is no move of R212 and changes nothing. -/
def periphMove (m : PeriphMove) (s : State) : State :=
  match m with
  | .setFlag f => { s with istr := setIstrFlag f s.istr }
  | .setIdDir v => { s with istr := setIdDir v s.istr }
  | .rxDone i setup => setEpr i (rxDoneValue setup (readEpr s i)) s
  | .txDone i => setEpr i (txDoneValue (readEpr s i)) s
  | .setState i d => setEpr i (setStateValue d (readEpr s i)) s
  | .writeCell k v => if Config.periphWritable k then writeCell k v s else s
  | .writeRxCount e c => writeCell (bdtCell e .rxCount) (rxCountValue c (readCell s (bdtCell e .rxCount))) s

/-- The event handler's answer, its one step in CALL_WAIT (R169): the descriptor it returns is recorded in the event
and otherwise discarded. -/
def handlerAnswer (s : State) : State :=
  toClear (flagBit .ctr) { s with events := s.events ++ [.handlerReturn s.params.descriptor] }

/-- An automatic activation is enabled (R209, way 2). -/
def autoEnabled (s : State) : Bool := s.params.irqAuto && s.fsm == .idle && irqLine s.istr

end Sys2Proof.Machine
end

