-- ==== Sys2Proof/Machine/Agents.lean ====
section
/-! DEFINITION. Whose step comes next, and what it does: the block's step (R10), the turns of the agenda (R5, R207),
and the default order when the agenda is empty (assumption 3). -/

namespace Sys2Proof.Machine

/-- What the block reads at the stream position (R38, R76). -/
def fetch (s : State) : Decoded := decode (pending s)

/-- The command at the head of the stream, in IDLE (R10, R76): it runs, or its word faults (R74, R75) and is consumed
(R203), or there is no command to run: the stream is at its end or a payload is missing (R72). -/
def commandStep (s : State) : Option (Host.Outcome State Fault Refusal) :=
  match fetch s with
  | .instr i len => some (exec i (consume len s))
  | .reject (.illegalCommand op) => some (.next (raiseFault .illegalCommand (op.setWidth 16) (consume 1 s)))
  | .reject (.reservedNonzero op len) =>
    some (.next (raiseFault .reservedNonzero (op.setWidth 16) (consume len s)))
  | .reject .payloadMissing => none
  | .reject .noCommand => none

/-- The block's own step, `none` where it has none: in CALL_WAIT it waits for the handler (R168), in FAULT it is
halted (R205); a command is held while FSM is not IDLE (R10). -/
def blockStep (s : State) : Option (Host.Outcome State Fault Refusal) :=
  match s.fsm with
  | .idle => commandStep s
  | .resetAct => some (.next (resetStep s))
  | .ctrEval => some (.next (evalStep s))
  | .callWait => none
  | .clear => some (.next (clearStep s))
  | .fault => none

/-- With no command to run: an automatic activation if one is enabled (R209), else the run's end, "completed" if the
stream is consumed and "stuck" if a command waits for payload words that are not there (R72, R205). -/
def quietStep (s : State) : Host.Outcome State Fault Refusal :=
  if autoEnabled s then .next (activate s.params.ctx s)
  else if pending s = [] then .fault .completed
  else .fault .stuck

/-- The step of the agent that can still move when the block cannot: in CALL_WAIT the handler answers (R214); in FAULT
the run has halted (R205). (In RESET_ACT, CTR_EVAL and CLEAR the block always has a step.) -/
def otherStep (s : State) : Host.Outcome State Fault Refusal :=
  match s.fsm with
  | .callWait => .next (handlerAnswer s)
  | .fault => .fault .halted
  | .idle | .resetAct | .ctrEval | .clear => quietStep s

/-- The default order, when the environment has chosen nothing (assumption 3): the block's step if it has one, else
the handler's answer, else an automatic activation, else the run ends. -/
def defaultStep (s : State) : Host.Outcome State Fault Refusal :=
  match blockStep s with
  | some o => o
  | none => otherStep s

/-- One turn the environment chose (R5). A turn of an agent with no step enabled passes: the state stays as it is. -/
def takeTurn (t : Turn) (s : State) : Host.Outcome State Fault Refusal :=
  match t with
  | .block =>
    match blockStep s with
    | some o => o
    | none => .next s
  | .activation => .next (if autoEnabled s then activate s.params.ctx s else s)
  | .handler => .next (if s.fsm = .callWait then handlerAnswer s else s)
  | .peripheral m => .next (periphMove m s)
  | .powerOn => .next (powerOn s)

/-- One step of one agent: the agenda's next turn, else the default order (R5, R207). -/
def agentStep (s : State) : Host.Outcome State Fault Refusal :=
  match s.agenda with
  | [] => defaultStep s
  | t :: rest => takeTurn t { s with agenda := rest }

/-- `s` about to run the command whose words are `ws`: they stand next in the stream, the block is IDLE and the
default order holds. -/
def readyToRun (ws : List CmdWord) (s : State) : State :=
  { loadWords ws s with fsm := .idle, agenda := [] }

end Sys2Proof.Machine
end

