-- ==== Sys2Proof/Machine/Step.lean ====
section
/-! DEFINITION. The step, with its three outcomes, and the state about to run one given instruction. -/

namespace Sys2Proof.Machine

/-- One atomic step of one agent (R5, R10). -/
def step (s : State) : Host.Outcome State Fault Refusal := agentStep s

/-- `s` with the table word `w` of `nbits` bits standing where the step reads its next command (assumption 4). -/
def State.withFetchWord (s : State) (nbits w : Nat) : State := readyToRun (tableWords nbits w) s

end Sys2Proof.Machine
end

