-- ==== Sys2Proof/Machine/Descriptor.lean ====
section
/-! DEFINITION. The interface data of the event handler (spec 45_descriptor_formats.md): pure functions outside the
block, with no opcode and no fault (R190). -/

namespace Sys2Proof.Machine

/-- `UsbVersion::new(major, minor, revision)`: each input truncated to its field, 8, 4 and 4 bits (R191). -/
def usbVersion (major minor revision : Nat) : BitVec 16 :=
  BitVec.ofNat 8 major ++ BitVec.ofNat 4 minor ++ BitVec.ofNat 4 revision

/-- `major(v) = v[15:8]` (R192). -/
def versionMajor (v : BitVec 16) : Nat := (v.extractLsb' 8 8).toNat

/-- `minor(v) = v[7:4]` (R192). -/
def versionMinor (v : BitVec 16) : Nat := (v.extractLsb' 4 4).toNat

/-- `revision(v) = v[3:0]` (R192). -/
def versionRevision (v : BitVec 16) : Nat := (v.extractLsb' 0 4).toNat

/-- `store(mA) = (mA / 2) mod 256`: a current in units of 2 mA, eight bits (R194). -/
def powerStore (mA : Nat) : Byte := BitVec.ofNat 8 (mA / 2)

/-- `read(s) = s × 2` (R194). -/
def powerRead (b : Byte) : Nat := b.toNat * 2

/-- A 16-bit field, least significant byte first (R53, R195). -/
def fieldBytes (v : BitVec 16) : List Byte := [v.extractLsb' 0 8, v.extractLsb' 8 8]

/-- The 18 bytes of a device descriptor, in the order of R195. -/
def descriptorBytes (d : DeviceDescriptor) : List Byte :=
  [Config.descriptorLength, Config.descriptorType] ++ fieldBytes d.bcdUSB ++ [d.bDeviceClass, d.bDeviceSubClass, d.bDeviceProtocol, d.bMaxPacketSize0] ++
    fieldBytes d.idVendor ++ fieldBytes d.idProduct ++ fieldBytes d.bcdDevice ++
    [d.iManufacturer, d.iProduct, d.iSerialNumber, d.bNumConfigurations]

end Sys2Proof.Machine
end

