-- ==== Sys2Proof/Machine/Assembler.lean ====
section
/-! DEFINITION. The assembler's mnemonics and operand checks (R79) and the pseudo-instructions (R80). Text is left
out: a line is a mnemonic and its numbers. -/

namespace Sys2Proof.Machine

/-- The mnemonic of a command (R73, R79). -/
def mnemonic : Instr → String
  | .pmaGet _ => "PMA_GET"
  | .pmaSet _ _ => "PMA_SET"
  | .pmaWriteBuf _ _ => "PMA_WRITE_BUF"
  | .bdtTxAddr _ => "BDT_TX_ADDR"
  | .bdtSetTxAddr _ _ => "BDT_SET_TX_ADDR"
  | .bdtTxCount _ => "BDT_TX_COUNT"
  | .bdtRxAddr _ => "BDT_RX_ADDR"
  | .bdtSetRxAddr _ _ => "BDT_SET_RX_ADDR"
  | .bdtRxCount _ => "BDT_RX_COUNT"
  | .encodeRxSize _ => "ENCODE_RX_SIZE"
  | .bdtSetRxSize _ _ => "BDT_SET_RX_SIZE"
  | .pmaAlloc _ => "PMA_ALLOC"
  | .epRead _ => "EP_READ"
  | .epWrite _ _ => "EP_WRITE"
  | .epResetAll => "EP_RESET_ALL"
  | .irqDispatch => "IRQ_DISPATCH"

/-- A number that fits a 16-bit field (R79). -/
def halfwordOperand (n : Nat) : Option Halfword := if n < 2 ^ 16 then some (BitVec.ofNat 16 n) else none

/-- A number that fits the 8-bit IDX field (R79). -/
def indexOperand (n : Nat) : Option Byte := if n < 2 ^ 8 then some (BitVec.ofNat 8 n) else none

/-- The command of an assembler line; `none` is an assembly error: an unknown mnemonic, a wrong number of operands or
an operand that does not fit its field (R79). -/
def assemble (name : String) (operands : List Nat) : Option Instr :=
  match name, operands with
  | "PMA_GET", [offset] => (halfwordOperand offset).map .pmaGet
  | "PMA_SET", [offset, value] => do return .pmaSet (← halfwordOperand offset) (← halfwordOperand value)
  | "PMA_WRITE_BUF", base :: data => do
    let i := Instr.pmaWriteBuf (← halfwordOperand base) (← data.mapM halfwordOperand)
    if i.wellFormed then some i else none
  | "BDT_TX_ADDR", [ep] => (indexOperand ep).map .bdtTxAddr
  | "BDT_SET_TX_ADDR", [ep, addr] => do return .bdtSetTxAddr (← indexOperand ep) (← halfwordOperand addr)
  | "BDT_TX_COUNT", [ep] => (indexOperand ep).map .bdtTxCount
  | "BDT_RX_ADDR", [ep] => (indexOperand ep).map .bdtRxAddr
  | "BDT_SET_RX_ADDR", [ep, addr] => do return .bdtSetRxAddr (← indexOperand ep) (← halfwordOperand addr)
  | "BDT_RX_COUNT", [ep] => (indexOperand ep).map .bdtRxCount
  | "ENCODE_RX_SIZE", [size] => (halfwordOperand size).map .encodeRxSize
  | "BDT_SET_RX_SIZE", [ep, size] => do return .bdtSetRxSize (← indexOperand ep) (← halfwordOperand size)
  | "PMA_ALLOC", [size] => (halfwordOperand size).map .pmaAlloc
  | "EP_READ", [ep] => (indexOperand ep).map .epRead
  | "EP_WRITE", [ep, value] => do return .epWrite (← indexOperand ep) (← halfwordOperand value)
  | "EP_RESET_ALL", [] => some .epResetAll
  | "IRQ_DISPATCH", [] => some .irqDispatch
  | _, _ => none

/-! ## Pseudo-instructions: each command of an expansion is a function of `<RESP>`, the value the commands before it
returned (R80) -/

/-- `ALLOC_TX ep, size` (R80). -/
def allocTx (ep : Byte) (size : Halfword) : List (Halfword → Instr) :=
  [fun _ => .pmaAlloc size, fun resp => .bdtSetTxAddr ep resp]

/-- `ALLOC_RX ep, size, cap` (R80). -/
def allocRx (ep : Byte) (size cap : Halfword) : List (Halfword → Instr) :=
  [fun _ => .pmaAlloc size, fun resp => .bdtSetRxAddr ep resp, fun _ => .bdtSetRxSize ep cap]

/-- `EP_SET ep, target` (R80). -/
def epSet (ep : Byte) (target : Halfword) : List (Halfword → Instr) :=
  [fun _ => .epRead ep, fun resp => .epWrite ep (rmt resp target)]

/-- `EP_CLEAR_CTR_RX ep` (R80, with 0x0080 and 0x8000 as the CTR bits of the layout). -/
def epClearCtrRx (ep : Byte) : List (Halfword → Instr) :=
  [fun _ => .epRead ep, fun resp => .epWrite ep (rmt resp ((resp ||| bitMask Config.eprCtrTx) &&& ~~~bitMask Config.eprCtrRx))]

/-- `EP_CLEAR_CTR_TX ep` (R80, with 0x8000 and 0x0080 as the CTR bits of the layout). -/
def epClearCtrTx (ep : Byte) : List (Halfword → Instr) :=
  [fun _ => .epRead ep, fun resp => .epWrite ep (rmt resp ((resp ||| bitMask Config.eprCtrRx) &&& ~~~bitMask Config.eprCtrTx))]

/-- `DISPATCH_ALL`: the next command of the repetition, for the ISTR value the host observes; none ends it (R80).
DESIGN CHOICE (assumption 21): the test comes before the first command too, so with ISTR[15:8] = 0 at the start no
IRQ_DISPATCH is issued, where R80 does not say whether a first one is (it would trap NO_RECOGNIZED_FLAG, R171). -/
def dispatchAllNext (istr : Halfword) : Option Instr := if irqLine istr then some .irqDispatch else none

end Sys2Proof.Machine
end

