-- ==== Sys2Proof/Machine/HostSoftware.lean ====
section
/-! DEFINITION. The host software that carries out a pseudo-instruction (R80): it reads RESP, makes the next word from
it and places that word in the stream, while the machine takes its steps. Between two commands any agent may step
(R66), a command is held while FSM is not IDLE, and after a fault no command runs (R10, R205). -/

namespace Sys2Proof.Machine

/-- A pseudo-instruction with its operands (R80). -/
inductive Pseudo where
  | allocTx (ep : Byte) (size : Halfword)
  | allocRx (ep : Byte) (size cap : Halfword)
  | epSet (ep : Byte) (target : Halfword)
  | epClearCtrRx (ep : Byte)
  | epClearCtrTx (ep : Byte)
  | dispatchAll
  deriving DecidableEq, Repr

/-- The pseudo-instruction of an assembler line, with the operand checks of R79; `none` is an assembly error. -/
def assemblePseudo (name : String) (operands : List Nat) : Option Pseudo :=
  match name, operands with
  | "ALLOC_TX", [ep, size] => do return .allocTx (← indexOperand ep) (← halfwordOperand size)
  | "ALLOC_RX", [ep, size, cap] => do
    return .allocRx (← indexOperand ep) (← halfwordOperand size) (← halfwordOperand cap)
  | "EP_SET", [ep, target] => do return .epSet (← indexOperand ep) (← halfwordOperand target)
  | "EP_CLEAR_CTR_RX", [ep] => (indexOperand ep).map .epClearCtrRx
  | "EP_CLEAR_CTR_TX", [ep] => (indexOperand ep).map .epClearCtrTx
  | "DISPATCH_ALL", [] => some .dispatchAll
  | _, _ => none

/-- The command the host issues after the first `placed` commands of a pseudo-instruction, from what it observes of
the block: RESP, and for DISPATCH_ALL whether a flag is pending (R80, R215); none where the pseudo-instruction ends. -/
def nextCommand (p : Pseudo) (placed : Nat) (s : State) : Option Instr :=
  match p with
  | .allocTx ep size => (allocTx ep size)[placed]?.map (· s.resp)
  | .allocRx ep size cap => (allocRx ep size cap)[placed]?.map (· s.resp)
  | .epSet ep target => (epSet ep target)[placed]?.map (· s.resp)
  | .epClearCtrRx ep => (epClearCtrRx ep)[placed]?.map (· s.resp)
  | .epClearCtrTx ep => (epClearCtrTx ep)[placed]?.map (· s.resp)
  | .dispatchAll => dispatchAllNext s.istr

/-- The host software in the middle of a pseudo-instruction, with the machine it drives. -/
structure HostRun where
  pseudo : Pseudo
  /-- How many of its commands stand in the stream, consumed or not. -/
  placed : Nat
  machine : State
  deriving DecidableEq, Repr

/-- Who moves next: the host software, or the machine (one step of the agent its agenda names). -/
inductive HostTurn where
  | host | machine
  deriving DecidableEq, Repr

/-- The host issues a command when the block has consumed the one before and is IDLE again, so never after a fault
(assumption 21). -/
def hostReady (s : State) : Bool := decide (pending s = [] ∧ s.fsm = .idle)

/-- The host's step: when it is ready it places the words of the next command at the end of the stream, else it
waits. -/
def placeNext (h : HostRun) : HostRun :=
  if hostReady h.machine then
    match nextCommand h.pseudo h.placed h.machine with
    | some i =>
      { h with placed := h.placed + 1, machine := { h.machine with stream := h.machine.stream ++ encode i } }
    | none => h
  else h

/-- The pseudo-instruction is carried out: the host is ready and has no command left to issue. -/
def pseudoDone (h : HostRun) : Bool :=
  hostReady h.machine && (nextCommand h.pseudo h.placed h.machine).isNone

/-- One turn of the host software or of the machine. -/
def hostStep (t : HostTurn) (h : HostRun) : Host.Outcome HostRun Fault Refusal :=
  match t with
  | .host => .next (placeNext h)
  | .machine =>
    match step h.machine with
    | .next s => .next { h with machine := s }
    | .fault r => .fault r
    | .refused r => .refused r

/-- The turns of a schedule, one after the other, up to the first end of the run. -/
def runPseudo : List HostTurn → HostRun → Host.Outcome HostRun Fault Refusal
  | [], h => .next h
  | t :: ts, h =>
    match hostStep t h with
    | .next h' => runPseudo ts h'
    | .fault r => .fault r
    | .refused r => .refused r

/-- The host software about to carry out `p` on the machine `s`. -/
def startPseudo (p : Pseudo) (s : State) : HostRun := { pseudo := p, placed := 0, machine := s }

end Sys2Proof.Machine
end

