-- ==== Sys2Proof/Safety.lean ====
section
/-! DEFINITION. The terms the claims use: the invariant of the block, the well-behaved premise WB of the peripheral
(R213), the ends of a run (R205), an allocation sequence (R133), and what the host can observe (R215). -/

namespace Sys2Proof.Machine

/-- What holds in every state a run reaches from `State.reset`, or from any state in which it holds. -/
structure BlockInv (s : State) : Prop where
  /-- The packet memory is in its canonical form. -/
  memory : s.pma.wf
  /-- The position lies inside the stream (R38). -/
  position : s.pos ≤ s.stream.length
  /-- FAULT_CAUSE is 0 exactly while no fault has occurred (R39, R201). -/
  cause : s.faultCause = 0 ↔ s.fsm ≠ .fault
  /-- In FAULT the fault registers are the last event's code and information (R203, R205). -/
  record : s.fsm = .fault →
    ∃ code info, s.events.getLast? = some (.fault code info) ∧ s.faultCause = faultByte code ∧ s.faultInfo = info
  /-- The bit to clear is one of the six recognised flags (R32, R160). -/
  clearing : s.fsm = .clear → ∃ f, recognised f = true ∧ s.clr = flagBit f
  /-- In RESET_ACT the snapshot selects RESET (R160). -/
  resetting : s.fsm = .resetAct → select s.snapv = some .reset
  /-- In CTR_EVAL and CALL_WAIT the snapshot selects CTR (R160). -/
  transfer : s.fsm = .ctrEval ∨ s.fsm = .callWait → select s.snapv = some .ctr
  /-- A running dispatch holds the context of its activation (R162). -/
  context : s.fsm ≠ .idle → s.fsm ≠ .fault → s.ctxl ≠ none

/-- WB1 to WB4 (R213), for one move in the state it is taken in. -/
def wellBehaved (m : PeriphMove) (s : State) : Prop :=
  match m with
  | .setFlag .other14 => False
  | .setFlag .other8 => False
  | .setFlag .ctr =>
    ∃ i : Fin 8, (epId s.istr).toNat = i.val ∧ (ctrRx (readEpr s i) = true ∨ ctrTx (readEpr s i) = true)
  | .setFlag .err => True
  | .setFlag .wkup => True
  | .setFlag .susp => True
  | .setFlag .reset => True
  | .setFlag .sof => True
  | .setIdDir _ => flagSet s.istr .ctr = false
  | .rxDone _ _ => flagSet s.istr .reset = false
  | .txDone _ => flagSet s.istr .reset = false
  | .setState _ _ => flagSet s.istr .reset = false
  | .writeCell k _ =>
    ∃ e : Fin 8,
      readCell s (bdtCell e .rxAddr) ≠ 0 ∧ (readCell s (bdtCell e .rxAddr)).toNat ≤ k ∧
        k < (readCell s (bdtCell e .rxAddr)).toNat + sizeCapacity (readCell s (bdtCell e .rxCount)) ∧
        statOfBits (statRx (readEpr s e)) = .valid
  | .writeRxCount e _ => statOfBits (statRx (readEpr s e)) = .valid

/-- The next turn, if it is the peripheral's, is a well-behaved move (R213). -/
def nextMoveWellBehaved (s : State) : Prop :=
  match s.agenda.head? with
  | some (.peripheral m) => wellBehaved m s
  | _ => True

/-- While ISTR.CTR is pending, and while a CTR dispatch looks at its snapshot, EP_ID names an endpoint (R213 WB2,
R246). -/
structure EpIdNamesEndpoint (s : State) : Prop where
  live : flagSet s.istr .ctr = true → (epId s.istr).toNat < 8
  snapshot : s.fsm = .ctrEval ∨ s.fsm = .callWait → (epId s.snapv).toNat < 8

/-- R205 "completed". -/
def runCompleted (s : State) : Prop := pending s = [] ∧ s.fsm = .idle ∧ autoEnabled s = false

/-- R205 "halted". -/
def runHalted (s : State) : Prop := s.fsm = .fault

/-- R205 "stuck": a PMA_WRITE_BUF at the head of the stream lacks payload words, and no activation is enabled. -/
def runStuck (s : State) : Prop :=
  fetch s = .reject .payloadMissing ∧ s.fsm = .idle ∧ autoEnabled s = false

/-- `k` steps, stopping at the first end of the run (the same recursion as `Host.Core.run`, over this machine). -/
def runSteps : Nat → State → Host.Outcome State Fault Refusal
  | 0, s => .next s
  | k + 1, s =>
    match step s with
    | .next t => runSteps k t
    | .fault r => .fault r
    | .refused r => .refused r

/-- The next turn is the block's: the environment chose it, or chose nothing. -/
def blocksTurn (s : State) : Prop := s.agenda = [] ∨ s.agenda.head? = some .block

/-- The next turn is the event handler's, when it waits to answer: the environment chose it, or chose nothing. -/
def handlersTurn (s : State) : Prop := s.agenda = [] ∨ s.agenda.head? = some .handler

/-- `s` after the fault numbered `cause` (R201) with information `info`, written out field by field (R203). -/
def faulted (cause : Byte) (code : FaultCode) (info : Halfword) (s : State) : State :=
  { s with faultCause := cause, faultInfo := info, fsm := .fault, events := s.events ++ [.fault code info] }

/-- `s` after a command that returned `v`, written out field by field (R36). -/
def responded (v : Halfword) (s : State) : State := { s with resp := v, events := s.events ++ [.resp v] }

/-- The commands of R73 whose column "returns" says RESP (R36). -/
def returnsValue : Instr → Bool
  | .pmaGet _ => true
  | .pmaSet _ _ => false
  | .pmaWriteBuf _ _ => false
  | .bdtTxAddr _ => true
  | .bdtSetTxAddr _ _ => false
  | .bdtTxCount _ => true
  | .bdtRxAddr _ => true
  | .bdtSetRxAddr _ _ => false
  | .bdtRxCount _ => true
  | .encodeRxSize _ => true
  | .bdtSetRxSize _ _ => false
  | .pmaAlloc _ => true
  | .epRead _ => true
  | .epWrite _ _ => false
  | .epResetAll => false
  | .irqDispatch => false

/-- The commands that use IDX, the endpoint index, with it (R73). -/
def endpointOperand : Instr → Option Byte
  | .pmaGet _ => none
  | .pmaSet _ _ => none
  | .pmaWriteBuf _ _ => none
  | .bdtTxAddr ep => some ep
  | .bdtSetTxAddr ep _ => some ep
  | .bdtTxCount ep => some ep
  | .bdtRxAddr ep => some ep
  | .bdtSetRxAddr ep _ => some ep
  | .bdtRxCount ep => some ep
  | .encodeRxSize _ => none
  | .bdtSetRxSize ep _ => some ep
  | .pmaAlloc _ => none
  | .epRead ep => some ep
  | .epWrite ep _ => some ep
  | .epResetAll => none
  | .irqDispatch => none

/-- `low` is the lowest allocated address of R130: the smallest nonzero value of the 16 address fields, TX at cell
`8e` and RX at cell `8e + 4`, or 512 if all are zero. -/
def isLowestAllocated (s : State) (low : Nat) : Prop :=
  let fields := fun (e : Fin 8) (rx : Bool) => (readCell s (8 * e.val + if rx then 4 else 0)).toNat
  ((∀ e rx, fields e rx = 0) ∧ low = 512) ∨
    ((∃ e rx, fields e rx = low) ∧ low ≠ 0 ∧ ∀ e rx, fields e rx ≠ 0 → low ≤ fields e rx)

/-- The recognised flags from the highest priority to the lowest (R163). -/
def priorityOrder : List IstrFlag := [.reset, .ctr, .sof, .wkup, .susp, .err]

/-- The arrows of R160, each with its source and target. -/
def dispatcherArrows : List (Fsm × Fsm) :=
  [(.idle, .resetAct), (.idle, .ctrEval), (.idle, .clear), (.idle, .fault), (.resetAct, .clear), (.ctrEval, .fault),
    (.ctrEval, .callWait), (.ctrEval, .clear), (.callWait, .clear), (.clear, .idle)]

/-- The host places a command and the machine takes a step, twice over: the turns of a pseudo-instruction of two
commands with no other step between them (R80). -/
def twoCommands : List HostTurn := [.host, .machine, .host, .machine]

/-- The state without the latches SNAPV, CLR and CTXL, which have no meaning in IDLE (R37, R173). -/
def withoutLatches (s : State) : State := { s with snapv := 0, clr := 0, ctxl := none }

/-- One allocation of R133: a size, and the address field that takes the result. -/
structure AllocRequest where
  ep : Fin 8
  rx : Bool
  size : Halfword
  deriving DecidableEq, Repr

/-- The address field of a request. -/
def requestField (r : AllocRequest) : BdtField := if r.rx then .rxAddr else .txAddr

/-- The cell of that field. -/
def requestCell (r : AllocRequest) : Nat := bdtCell r.ep (requestField r)

/-- The command that stores an address in the field of a request. -/
def storeCommand (r : AllocRequest) (addr : Halfword) : Instr :=
  if r.rx then .bdtSetRxAddr (BitVec.ofNat 8 r.ep.val) addr else .bdtSetTxAddr (BitVec.ofNat 8 r.ep.val) addr

/-- `PMA_ALLOC size` and then the store of its result: the state after both and the address, `none` if a command
faulted. -/
def allocAndStore (r : AllocRequest) (s : State) : Option (Nat × State) :=
  match exec (.pmaAlloc r.size) s with
  | .next t =>
    if t.fsm = .fault then none
    else
      match exec (storeCommand r t.resp) t with
      | .next u => some (t.resp.toNat, u)
      | _ => none
  | _ => none

/-- A sequence of such allocations: the buffers `(first cell, size)` in order and the state at the end, `none` if one
faulted (R133). -/
def allocSequence : List AllocRequest → State → Option (List (Nat × Nat) × State)
  | [], s => some ([], s)
  | r :: rs, s =>
    match allocAndStore r s with
    | none => none
    | some (a, t) =>
      match allocSequence rs t with
      | none => none
      | some (bufs, u) => some ((a, r.size.toNat) :: bufs, u)

/-- What the host reads: RESP, FSM, the fault registers and the interrupt line (R215). DESIGN CHOICE (assumption 22):
FSM is read as the whole dispatcher state of R37, which busy state too, where R215 glosses the reading as "busy, idle,
halted" and does not say whether the host tells the busy states apart. -/
structure HostView where
  resp : Halfword
  fsm : Fsm
  faultCause : Byte
  faultInfo : Halfword
  line : Bool
  deriving DecidableEq, Repr

/-- The host's observation of a state (R215; assumption 22 for how finely it shows FSM). -/
def hostView (s : State) : HostView :=
  { resp := s.resp, fsm := s.fsm, faultCause := s.faultCause, faultInfo := s.faultInfo, line := irqLine s.istr }

end Sys2Proof.Machine
end

