-- ==== Sys2Proof/Certificates/Slice0/Obligations.lean ====
section
/-! DEFINITION. The statements for the provers. Each docstring names the rule of the spec it formalises; a rule that
the spec marks as its own decision (92_eei_decisions.md) or as derived is named so. -/

open Sys2Proof Sys2Proof.Machine

/-! ## Packet-memory raw access -/

/-- R100 (the fault for an offset of 512 or more is the spec's decision D6): PMA_GET returns the cell and changes
nothing but RESP and the history; an offset outside the packet memory faults. -/
def Obligations.PmaGetReturnsTheCell : Prop :=
  ∀ (s : State) (offset : Halfword),
    (offset.toNat < 512 → exec (.pmaGet offset) s = .next (responded (readCell s offset.toNat) s)) ∧
      (512 ≤ offset.toNat → exec (.pmaGet offset) s = .next (faulted 0x32 .pmaRange offset s))

/-- R101 (the fault is the spec's decision D6): PMA_SET stores the value in the cell, any cell, the BDT's too, and
changes nothing else. -/
def Obligations.PmaSetStoresTheCell : Prop :=
  ∀ (s : State) (offset value : Halfword),
    (offset.toNat < 512 →
      ∃ t, exec (.pmaSet offset value) s = .next t ∧
        (∀ a, readCell t a = if a = offset.toNat then value else readCell s a) ∧ { t with pma := s.pma } = s) ∧
      (512 ≤ offset.toNat → exec (.pmaSet offset value) s = .next (faulted 0x32 .pmaRange offset s))

/-- R102 (the check of the whole range before the first write is the spec's decision D24): PMA_WRITE_BUF stores every
halfword of its payload in order, leaves every other cell and all other state, and writes no cell when the range does
not fit. -/
def Obligations.PmaWriteBufStoresTheRange : Prop :=
  ∀ (s : State) (base : Halfword) (data : List Halfword),
    (base.toNat + data.length ≤ 512 →
      ∃ t, exec (.pmaWriteBuf base data) s = .next t ∧
        (∀ (j : Nat) (hj : j < data.length), readCell t (base.toNat + j) = data[j]) ∧
        (∀ a, a < base.toNat ∨ base.toNat + data.length ≤ a → readCell t a = readCell s a) ∧
        { t with pma := s.pma } = s) ∧
      (512 < base.toNat + data.length →
        exec (.pmaWriteBuf base data) s = .next (faulted 0x32 .pmaRange base s))

/-! ## The buffer descriptor table -/

/-- R111, R114: BDT_TX_ADDR and BDT_RX_ADDR return the address field of the endpoint, unchecked, and change nothing
but RESP and the history; an index of 8 or more faults. -/
def Obligations.BdtAddressGettersReturnTheField : Prop :=
  ∀ (s : State) (ep : Byte),
    (ep.toNat < 8 →
      exec (.bdtTxAddr ep) s = .next (responded (readCell s (8 * ep.toNat)) s) ∧
        exec (.bdtRxAddr ep) s = .next (responded (readCell s (8 * ep.toNat + 4)) s)) ∧
      (8 ≤ ep.toNat →
        exec (.bdtTxAddr ep) s = .next (faulted 0x31 .epRange (ep.setWidth 16) s) ∧
          exec (.bdtRxAddr ep) s = .next (faulted 0x31 .epRange (ep.setWidth 16) s))

/-- R113, R116 (that the whole cell is returned, no field masked out, is the spec's decision D27). -/
def Obligations.BdtCountGettersReturnTheWholeCell : Prop :=
  ∀ (s : State) (ep : Byte),
    (ep.toNat < 8 →
      exec (.bdtTxCount ep) s = .next (responded (readCell s (8 * ep.toNat + 2)) s) ∧
        exec (.bdtRxCount ep) s = .next (responded (readCell s (8 * ep.toNat + 6)) s)) ∧
      (8 ≤ ep.toNat →
        exec (.bdtTxCount ep) s = .next (faulted 0x31 .epRange (ep.setWidth 16) s) ∧
          exec (.bdtRxCount ep) s = .next (faulted 0x31 .epRange (ep.setWidth 16) s))

/-- R112, R115 (that the address is stored unchecked is the spec's decision D26): the setters store any address in
their field and change nothing else. -/
def Obligations.BdtSettersStoreTheField : Prop :=
  ∀ (s : State) (ep : Byte) (addr : Halfword),
    (ep.toNat < 8 →
      (∃ t, exec (.bdtSetTxAddr ep addr) s = .next t ∧
        (∀ a, readCell t a = if a = 8 * ep.toNat then addr else readCell s a) ∧ { t with pma := s.pma } = s) ∧
        (∃ t, exec (.bdtSetRxAddr ep addr) s = .next t ∧
          (∀ a, readCell t a = if a = 8 * ep.toNat + 4 then addr else readCell s a) ∧
          { t with pma := s.pma } = s)) ∧
      (8 ≤ ep.toNat →
        exec (.bdtSetTxAddr ep addr) s = .next (faulted 0x31 .epRange (ep.setWidth 16) s) ∧
          exec (.bdtSetRxAddr ep addr) s = .next (faulted 0x31 .epRange (ep.setWidth 16) s))

/-- R118, R119 with the constraints of R117 (their order is the spec's decision D25): ENCODE_RX_SIZE returns the
encoding in numbers, or raises the fault of the first constraint the size violates. -/
def Obligations.EncodeRxSizeReturnsTheEncoding : Prop :=
  ∀ (s : State) (size : Halfword),
    (size.toNat ≤ 62 → size.toNat % 2 = 0 →
      exec (.encodeRxSize size) s = .next (responded (BitVec.ofNat 16 (size.toNat / 2 * 1024)) s)) ∧
      (62 < size.toNat → size.toNat ≤ 512 → size.toNat % 32 = 0 →
        exec (.encodeRxSize size) s =
          .next (responded (BitVec.ofNat 16 ((size.toNat / 32 - 1) * 1024 + 0x8000)) s)) ∧
      (512 < size.toNat → exec (.encodeRxSize size) s = .next (faulted 0x12 .rxSizeTooLarge size s)) ∧
      (62 < size.toNat → size.toNat ≤ 512 → size.toNat % 32 ≠ 0 →
        exec (.encodeRxSize size) s = .next (faulted 0x13 .rxSizeNotMult32 size s)) ∧
      (size.toNat ≤ 62 → size.toNat % 2 ≠ 0 →
        exec (.encodeRxSize size) s = .next (faulted 0x11 .rxSizeOdd size s))

/-- R120, R206 (that the whole cell is written, bits 9:0 as 0, is the spec's decision D25): BDT_SET_RX_SIZE stores the
encoding R118 gives in the RX count cell and changes nothing else; the endpoint is checked before the size. -/
def Obligations.BdtSetRxSizeStoresTheEncoding : Prop :=
  ∀ (s : State) (ep : Byte) (size : Halfword),
    (ep.toNat < 8 → size.toNat ≤ 62 → size.toNat % 2 = 0 →
      ∃ t, exec (.bdtSetRxSize ep size) s = .next t ∧
        (∀ a, readCell t a =
          if a = 8 * ep.toNat + 6 then BitVec.ofNat 16 (size.toNat / 2 * 1024) else readCell s a) ∧
        { t with pma := s.pma } = s) ∧
      (ep.toNat < 8 → 62 < size.toNat → size.toNat ≤ 512 → size.toNat % 32 = 0 →
        ∃ t, exec (.bdtSetRxSize ep size) s = .next t ∧
          (∀ a, readCell t a =
            if a = 8 * ep.toNat + 6 then BitVec.ofNat 16 ((size.toNat / 32 - 1) * 1024 + 0x8000)
            else readCell s a) ∧
          { t with pma := s.pma } = s) ∧
      (8 ≤ ep.toNat → exec (.bdtSetRxSize ep size) s = .next (faulted 0x31 .epRange (ep.setWidth 16) s)) ∧
      (ep.toNat < 8 → 512 < size.toNat →
        exec (.bdtSetRxSize ep size) s = .next (faulted 0x12 .rxSizeTooLarge size s)) ∧
      (ep.toNat < 8 → 62 < size.toNat → size.toNat ≤ 512 → size.toNat % 32 ≠ 0 →
        exec (.bdtSetRxSize ep size) s = .next (faulted 0x13 .rxSizeNotMult32 size s)) ∧
      (ep.toNat < 8 → size.toNat ≤ 62 → size.toNat % 2 ≠ 0 →
        exec (.bdtSetRxSize ep size) s = .next (faulted 0x11 .rxSizeOdd size s))

/-- R121 (derived by the spec from R118): the capacity an encoded size stands for is the size, for every size that
passes R117's check. -/
def Obligations.RxSizeCapacityInvertsTheEncoding : Prop :=
  ∀ size : Halfword, rxSizeCheck size = none → sizeCapacity (encodeSize size) = size.toNat

/-! ## The allocator -/

/-- R131 over the scan of R130 (that stored values are taken as they are is the spec's decision D23): PMA_ALLOC
returns `low − size` and changes nothing but RESP and the history, and faults exactly when that would fall below 64;
every state has a lowest allocated address. -/
def Obligations.PmaAllocReturnsLowMinusSize : Prop :=
  ∀ (s : State) (size : Halfword),
    (∃ low, isLowestAllocated s low) ∧
      ∀ low, isLowestAllocated s low →
        (size.toNat + 64 ≤ low →
          exec (.pmaAlloc size) s = .next (responded (BitVec.ofNat 16 (low - size.toNat)) s)) ∧
          (low < size.toNat + 64 →
            exec (.pmaAlloc size) s = .next (faulted 0x14 .allocExhausted size s))

/-- R132 (derived by the spec from R131 and R130): a PMA_ALLOC that completes writes no state but RESP and the
history, and a second one of the same size, with no store between, returns the same address. -/
def Obligations.PmaAllocRecordsNothing : Prop :=
  ∀ (s t : State) (size : Halfword),
    exec (.pmaAlloc size) s = .next t → t.fsm ≠ .fault →
      { t with resp := s.resp, events := s.events } = s ∧
        ∃ u, exec (.pmaAlloc size) t = .next u ∧ u.resp = t.resp ∧ u.fsm ≠ .fault

/-- R133, R134 (derived by the spec from R130 and R131): from a state whose 16 address fields are 0, allocations each
stored in an address field of its own return `a_i = a_{i-1} − size_i` with `a_0 = 512`, lie in `[64, 512)`, and are
pairwise disjoint, each wholly below the ones before it. -/
def Obligations.StoredAllocationsAreDisjoint : Prop :=
  ∀ (requests : List AllocRequest) (s u : State) (buffers : List (Nat × Nat)),
    (∀ e : Fin 8, readCell s (8 * e.val) = 0 ∧ readCell s (8 * e.val + 4) = 0) →
    (requests.map requestCell).Nodup →
    allocSequence requests s = some (buffers, u) →
      buffers.map Prod.snd = requests.map (fun r => r.size.toNat) ∧
        (∀ (j : Nat) (hj : j < buffers.length),
          (512 :: buffers.map Prod.fst)[j]? = some (buffers[j].1 + buffers[j].2)) ∧
        (∀ b ∈ buffers, 64 ≤ b.1 ∧ b.1 + b.2 ≤ 512) ∧
        buffers.Pairwise (fun earlier later => later.1 + later.2 ≤ earlier.1)

/-- R131, R133: from an idle state whose 16 address fields are 0, stored allocations into distinct fields succeed
whenever their sizes add up to at most the 448 cells of the arena, and they change nothing outside the packet memory,
RESP and the history. -/
def Obligations.FittingAllocationsSucceed : Prop :=
  ∀ (requests : List AllocRequest) (s : State),
    s.fsm = .idle →
    (∀ e : Fin 8, readCell s (8 * e.val) = 0 ∧ readCell s (8 * e.val + 4) = 0) →
    (requests.map requestCell).Nodup →
    (requests.map (fun r => r.size.toNat)).sum ≤ 448 →
      ∃ buffers u, allocSequence requests s = some (buffers, u) ∧ buffers.length = requests.length ∧
        { u with pma := s.pma, resp := s.resp, events := s.events } = s

/-! ## The endpoint register file -/

/-- R141: EP_READ returns the register and changes nothing but RESP and the history; an index of 8 or more faults. -/
def Obligations.EpReadReturnsTheRegister : Prop :=
  ∀ (s : State) (ep : Byte),
    (∀ h : ep.toNat < 8, exec (.epRead ep) s = .next (responded (s.epr[ep.toNat]) s)) ∧
      (8 ≤ ep.toNat → exec (.epRead ep) s = .next (faulted 0x31 .epRange (ep.setWidth 16) s))

/-- R142, R143, R28 (which field has which write kind is the spec's decision D35, and the bit positions are D12):
EP_WRITE, bit by bit: CTR_RX and CTR_TX are cleared by a written 0 and never set, the toggle fields are toggled by a
written 1, SETUP is kept, the plain fields take the written value; the other registers and all other state stay. -/
def Obligations.EpWriteAppliesTheWriteKinds : Prop :=
  ∀ (s : State) (ep : Byte) (w : Halfword),
    (∀ h : ep.toNat < 8,
      ∃ t, exec (.epWrite ep w) s = .next t ∧
        (∀ j : Fin 16, t.epr[ep.toNat].getLsbD j.val =
          if j.val = 15 ∨ j.val = 7 then s.epr[ep.toNat].getLsbD j.val && w.getLsbD j.val
          else if j.val = 14 ∨ j.val = 13 ∨ j.val = 12 ∨ j.val = 6 ∨ j.val = 5 ∨ j.val = 4 then
            xor (s.epr[ep.toNat].getLsbD j.val) (w.getLsbD j.val)
          else if j.val = 11 then s.epr[ep.toNat].getLsbD j.val
          else w.getLsbD j.val) ∧
        (∀ i : Fin 8, i.val ≠ ep.toNat → t.epr[i.val] = s.epr[i.val]) ∧ { t with epr := s.epr } = s) ∧
      (8 ≤ ep.toNat → exec (.epWrite ep w) s = .next (faulted 0x31 .epRange (ep.setWidth 16) s))

/-- R144 (its formula is the spec's decision D35): software read `o`, the register now holds `live`, the target is
`t`. Writing `rmt o t` keeps a CTR bit where the target has 1 and clears it where the target has 0, so a CTR bit set
since the read is lost there (R237 case 2); it toggles each toggle bit from its live value by `o ^ t`, which reaches
the target if the bit has not changed and misses it if it has (R237 case 3); it sets the plain fields to the target
and keeps SETUP. -/
def Obligations.ReadModifyToggleReachesTheTarget : Prop :=
  ∀ (o live t : Halfword) (j : Fin 16),
    (epWriteValue live (rmt o t)).getLsbD j.val =
        (if j.val = 15 ∨ j.val = 7 then live.getLsbD j.val && t.getLsbD j.val
        else if j.val = 14 ∨ j.val = 13 ∨ j.val = 12 ∨ j.val = 6 ∨ j.val = 5 ∨ j.val = 4 then
          xor (live.getLsbD j.val) (xor (o.getLsbD j.val) (t.getLsbD j.val))
        else if j.val = 11 then live.getLsbD j.val
        else t.getLsbD j.val) ∧
      (j.val ≠ 15 → j.val ≠ 7 → j.val ≠ 11 →
        (epWriteValue o (rmt o t)).getLsbD j.val = t.getLsbD j.val)

/-- R145 (that the cells other than the 16 address fields become draws is the spec's decision D22): EP_RESET_ALL
leaves every endpoint register and every address field 0, draws every other cell anew, and changes nothing else, ISTR
in particular. -/
def Obligations.EpResetAllUnconfigures : Prop :=
  ∀ s : State,
    ∃ t, exec .epResetAll s = .next t ∧ (∀ i : Fin 8, t.epr[i.val] = 0) ∧
      (∀ e : Fin 8, readCell t (8 * e.val) = 0 ∧ readCell t (8 * e.val + 4) = 0) ∧
      (∀ a, (∀ e : Fin 8, a ≠ 8 * e.val ∧ a ≠ 8 * e.val + 4) →
        readCell t a = Config.drawCell (s.drawEpoch + 1) a) ∧
      { t with pma := s.pma, drawEpoch := s.drawEpoch, epr := s.epr } = s

/-- R80 (the expansions are the spec's decision D33): on an idle machine with the stream consumed and no turn chosen
(agenda = [], the default order of log entry 3), so with no other step between its two commands, EP_CLEAR_CTR_RX
carried out by the host software clears CTR_RX, EP_CLEAR_CTR_TX clears CTR_TX. Each ends with no command left to issue
and keeps every other bit of the register, every other register and all other state but RESP, the history and the
stream, of which it consumes the two words placed. -/
def Obligations.ClearCtrPseudosClearOneFlag : Prop :=
  ∀ (s : State) (ep : Byte) (h : ep.toNat < 8),
    s.fsm = .idle → s.agenda = [] → s.pos = s.stream.length →
      (∃ r, runPseudo twoCommands (startPseudo (.epClearCtrRx ep) s) = .next r ∧ pseudoDone r = true ∧
        r.machine.epr[ep.toNat] = (s.epr[ep.toNat] &&& 0x7FFF) ∧
        (∀ i : Fin 8, i.val ≠ ep.toNat → r.machine.epr[i.val] = s.epr[i.val]) ∧ r.machine.pos = s.pos + 2 ∧
        { r.machine with
          epr := s.epr, resp := s.resp, events := s.events, stream := s.stream, pos := s.pos } = s) ∧
      (∃ r, runPseudo twoCommands (startPseudo (.epClearCtrTx ep) s) = .next r ∧ pseudoDone r = true ∧
        r.machine.epr[ep.toNat] = (s.epr[ep.toNat] &&& 0xFF7F) ∧
        (∀ i : Fin 8, i.val ≠ ep.toNat → r.machine.epr[i.val] = s.epr[i.val]) ∧ r.machine.pos = s.pos + 2 ∧
        { r.machine with
          epr := s.epr, resp := s.resp, events := s.events, stream := s.stream, pos := s.pos } = s)

/-- R140 (the fault is the spec's decision D7) and R206: every command that uses IDX raises EP_RANGE for an index of 8
or more, whatever its other operands, and changes nothing else. -/
def Obligations.EndpointIndexIsChecked : Prop :=
  ∀ (s : State) (i : Instr) (ep : Byte),
    endpointOperand i = some ep → 8 ≤ ep.toNat →
      exec i s = .next (faulted 0x31 .epRange (BitVec.ofNat 16 ep.toNat) s)

/-! ## The dispatcher -/

/-- R163: `select` answers the recognised flag that is set and has no set flag before it in the strict priority order,
and NONE exactly when no recognised flag is set, whatever the other bits are. -/
def Obligations.SelectFollowsThePriorityOrder : Prop :=
  ∀ v : Halfword,
    (∀ f, select v = some f ↔
      ∃ before after, priorityOrder = before ++ f :: after ∧ flagSet v f = true ∧
        ∀ g ∈ before, flagSet v g = false) ∧
      (select v = none ↔ ∀ f ∈ priorityOrder, flagSet v f = false)

/-- R162 (one read of ISTR per dispatch is the spec's decision D18; the bit positions are D13): IRQ_DISPATCH with a
recognised flag pending latches ISTR and CTX and goes to the state of the highest-priority flag's branch; it changes
nothing else. -/
def Obligations.IrqDispatchActivates : Prop :=
  ∀ s : State,
    (s.istr.getLsbD 10 = true →
      exec .irqDispatch s = .next { s with snapv := s.istr, ctxl := some s.params.ctx, fsm := .resetAct }) ∧
      (s.istr.getLsbD 10 = false → s.istr.getLsbD 15 = true →
        exec .irqDispatch s = .next { s with snapv := s.istr, ctxl := some s.params.ctx, fsm := .ctrEval }) ∧
      (s.istr.getLsbD 10 = false → s.istr.getLsbD 15 = false → s.istr.getLsbD 9 = true →
        exec .irqDispatch s =
          .next { s with snapv := s.istr, ctxl := some s.params.ctx, clr := 9, fsm := .clear }) ∧
      (s.istr.getLsbD 10 = false → s.istr.getLsbD 15 = false → s.istr.getLsbD 9 = false →
        s.istr.getLsbD 12 = true →
        exec .irqDispatch s =
          .next { s with snapv := s.istr, ctxl := some s.params.ctx, clr := 12, fsm := .clear }) ∧
      (s.istr.getLsbD 10 = false → s.istr.getLsbD 15 = false → s.istr.getLsbD 9 = false →
        s.istr.getLsbD 12 = false → s.istr.getLsbD 11 = true →
        exec .irqDispatch s =
          .next { s with snapv := s.istr, ctxl := some s.params.ctx, clr := 11, fsm := .clear }) ∧
      (s.istr.getLsbD 10 = false → s.istr.getLsbD 15 = false → s.istr.getLsbD 9 = false →
        s.istr.getLsbD 12 = false → s.istr.getLsbD 11 = false → s.istr.getLsbD 13 = true →
        exec .irqDispatch s =
          .next { s with snapv := s.istr, ctxl := some s.params.ctx, clr := 13, fsm := .clear })

/-- R171: with no recognised flag set, whatever else ISTR holds, an activation raises NO_RECOGNIZED_FLAG with the ISTR
value, and nothing else is written. -/
def Obligations.NoRecognisedFlagTraps : Prop :=
  ∀ s : State,
    (∀ f ∈ priorityOrder, flagSet s.istr f = false) →
      exec .irqDispatch s = .next (faulted 0x22 .noRecognizedFlag s.istr s)

/-- R165, R166, R167, R168, R172 (decisions D7, D18, D19, D20, D21): the evaluate step, for the block's turn in
CTR_EVAL. `E` is the live register of the endpoint EP_ID of the snapshot names. -/
def Obligations.EvaluateStepDecides : Prop :=
  ∀ s : State,
    s.fsm = .ctrEval → blocksTurn s →
      (∀ (h : (epId s.snapv).toNat < 8) (ctx : Ctx),
        ctrRx s.epr[(epId s.snapv).toNat] = true → setupFlag s.epr[(epId s.snapv).toNat] = true →
        s.ctxl = some ctx →
          step s = .next { s with
            agenda := s.agenda.tail, fsm := .callWait, events := s.events ++ [.handlerCall ctx] }) ∧
        (∀ h : (epId s.snapv).toNat < 8,
          ctrRx s.epr[(epId s.snapv).toNat] = true → setupFlag s.epr[(epId s.snapv).toNat] = false →
            step s = .next { s with agenda := s.agenda.tail, clr := 15, fsm := .clear }) ∧
        (∀ h : (epId s.snapv).toNat < 8,
          ctrRx s.epr[(epId s.snapv).toNat] = false → ctrTx s.epr[(epId s.snapv).toNat] = true →
          s.params.txCheckFixed = true →
            step s = .next { s with agenda := s.agenda.tail, clr := 15, fsm := .clear }) ∧
        (∀ h : (epId s.snapv).toNat < 8,
          ctrRx s.epr[(epId s.snapv).toNat] = false →
          ctrTx s.epr[(epId s.snapv).toNat] = false ∨ s.params.txCheckFixed = false →
            step s = .next (faulted 0x21 .ctrNoDirection (BitVec.ofNat 16 (epId s.snapv).toNat)
              { s with agenda := s.agenda.tail })) ∧
        (8 ≤ (epId s.snapv).toNat →
          step s = .next (faulted 0x31 .epRange (BitVec.ofNat 16 (epId s.snapv).toNat)
            { s with agenda := s.agenda.tail }))

/-- R169, R214 (decision D21): the event handler's answer, its one step in CALL_WAIT, records HandlerReturn and goes on
to clear CTR; it writes nothing else of the block. (That the event carries the descriptor is the model's choice, log
entry 11.) -/
def Obligations.HandlerAnswers : Prop :=
  ∀ s : State,
    s.fsm = .callWait → handlersTurn s →
      step s = .next { s with
        agenda := s.agenda.tail, clr := 15, fsm := .clear,
        events := s.events ++ [.handlerReturn s.params.descriptor] }

/-- R170: the clear step makes bit CLR of the live ISTR 0 and leaves every other bit, records the flag, returns to
IDLE and changes nothing else. -/
def Obligations.ClearStepClearsOneFlag : Prop :=
  ∀ (s : State) (f : IstrFlag),
    s.fsm = .clear → s.clr = flagBit f → blocksTurn s →
      ∃ t, step s = .next t ∧
        (∀ j : Fin 16, t.istr.getLsbD j.val = if j.val = s.clr.toNat then false else s.istr.getLsbD j.val) ∧
        { t with istr := s.istr } =
          { s with agenda := s.agenda.tail, fsm := .idle, events := s.events ++ [.cleared f] }

/-- R164: an IRQ_DISPATCH with the RESET flag pending, run to its end with no other agent's step between (no turn
chosen, agenda = [], the default order of log entry 3), leaves every endpoint register and every address field 0 and
clears RESET; every other bit of ISTR stays, no handler is called, and RESP and DADDR stay. -/
def Obligations.BusResetDispatch : Prop :=
  ∀ (s : State) (n : Nat),
    s.fsm = .idle → s.agenda = [] → fetch s = .instr .irqDispatch n → flagSet s.istr .reset = true →
      ∃ t, runSteps 3 s = .next t ∧ t.fsm = .idle ∧ (∀ i : Fin 8, t.epr[i.val] = 0) ∧
        (∀ e : Fin 8, readCell t (8 * e.val) = 0 ∧ readCell t (8 * e.val + 4) = 0) ∧
        (∀ j : Fin 16, t.istr.getLsbD j.val =
          if j.val = (flagBit .reset).toNat then false else s.istr.getLsbD j.val) ∧
        t.events = s.events ++ [.cleared .reset] ∧ t.resp = s.resp ∧ t.daddr = s.daddr

/-- R166, R168, R169, R170, R178 (derived by the spec; 95_test_vectors.md S9): with no turn chosen (agenda = [], the
default order of log entry 3), so with no move of the peripheral between, an IRQ_DISPATCH with CTR pending and RESET
not, whose endpoint has CTR_RX and SETUP, calls the handler exactly once, clears CTR and no other bit of ISTR, and
leaves the endpoint registers and the packet memory as they were. (That HandlerReturn carries the descriptor is the
model's choice, log entry 11.) -/
def Obligations.SetupDispatchCallsTheHandlerOnce : Prop :=
  ∀ (s : State) (n : Nat) (h : (epId s.istr).toNat < 8),
    s.fsm = .idle → s.agenda = [] → fetch s = .instr .irqDispatch n →
    flagSet s.istr .reset = false → flagSet s.istr .ctr = true →
    ctrRx s.epr[(epId s.istr).toNat] = true → setupFlag s.epr[(epId s.istr).toNat] = true →
      ∃ t, runSteps 4 s = .next t ∧ t.fsm = .idle ∧
        t.events = s.events ++
          [.handlerCall s.params.ctx, .handlerReturn s.params.descriptor, .cleared .ctr] ∧
        (∀ j : Fin 16, t.istr.getLsbD j.val =
          if j.val = (flagBit .ctr).toNat then false else s.istr.getLsbD j.val) ∧
        t.epr = s.epr ∧ t.pma = s.pma ∧ t.drawEpoch = s.drawEpoch ∧ t.resp = s.resp ∧ t.daddr = s.daddr

/-- R241 (derived by the spec from R166 and R172): with no turn chosen (agenda = [], the default order of log entry 3),
so with no move of the peripheral between, and with TX_CHECK_FIXED = false (the parameter is R167's, decision D19), the
dispatch of a CTR whose endpoint has CTR_TX = 1 and CTR_RX = 0 raises CTR_NO_DIRECTION, with ISTR unchanged (R172,
decision D20); with TX_CHECK_FIXED = true it completes and clears CTR (R166, R170). -/
def Obligations.InCompletionTrapsUnlessFixed : Prop :=
  ∀ (s : State) (n : Nat) (h : (epId s.istr).toNat < 8),
    s.fsm = .idle → s.agenda = [] → fetch s = .instr .irqDispatch n →
    flagSet s.istr .reset = false → flagSet s.istr .ctr = true →
    ctrRx s.epr[(epId s.istr).toNat] = false → ctrTx s.epr[(epId s.istr).toNat] = true →
      (s.params.txCheckFixed = false →
        ∃ t, runSteps 2 s = .next t ∧ t.fsm = .fault ∧ t.faultCause = 0x21 ∧
          t.faultInfo = BitVec.ofNat 16 (epId s.istr).toNat ∧ t.istr = s.istr ∧
          t.events = s.events ++ [.fault .ctrNoDirection (BitVec.ofNat 16 (epId s.istr).toNat)]) ∧
        (s.params.txCheckFixed = true →
          ∃ t, runSteps 3 s = .next t ∧ t.fsm = .idle ∧ flagSet t.istr .ctr = false ∧
            t.events = s.events ++ [.cleared .ctr])

/-- R240 (derived by the spec from R164, R166 and R172): with no turn chosen (agenda = [], the default order of log
entry 3), so with no move of the peripheral between (which R240 excepts), and with RESET and CTR both pending, the
first of two IRQ_DISPATCH commands resets everything and clears RESET only, and the second finds no direction and
traps. -/
def Obligations.CtrPendingAcrossBusResetTraps : Prop :=
  ∀ s : State,
    s.fsm = .idle → s.agenda = [] → pending s = encode .irqDispatch ++ encode .irqDispatch →
    flagSet s.istr .reset = true → flagSet s.istr .ctr = true → (epId s.istr).toNat < 8 →
      ∃ t, runSteps 5 s = .next t ∧ t.fsm = .fault ∧ t.faultCause = 0x21 ∧
        t.faultInfo = BitVec.ofNat 16 (epId s.istr).toNat ∧ flagSet t.istr .ctr = true ∧
        flagSet t.istr .reset = false ∧ (∀ i : Fin 8, t.epr[i.val] = 0) ∧
        t.events = s.events ++
          [.cleared .reset, .fault .ctrNoDirection (BitVec.ofNat 16 (epId s.istr).toNat)]

/-- R247 (derived by the spec from R160): with no other agent's step between (no turn chosen, agenda = [], the default
order of log entry 3), a running dispatch is back in IDLE or has faulted after at most three steps (its
block steps and the handler's answer), and the stream has not moved. -/
def Obligations.DispatchEndsWithinThreeSteps : Prop :=
  ∀ s : State,
    s.fsm ≠ .idle → s.fsm ≠ .fault → s.agenda = [] →
      ∃ k ≤ 3, ∃ t, runSteps k s = .next t ∧ (t.fsm = .idle ∨ t.fsm = .fault) ∧ t.pos = s.pos

/-- R160 (its states and arrows are the spec's decision D17): a step changes FSM only along an arrow of the table (a
command that faults goes from IDLE to FAULT, as an activation does), but for the power-on reset, which leaves IDLE. -/
def Obligations.DispatcherFollowsItsArrows : Prop :=
  ∀ s t : State,
    step s = .next t → s.agenda.head? ≠ some .powerOn → t.fsm ≠ s.fsm →
      (s.fsm, t.fsm) ∈ dispatcherArrows

/-- R174, R175 (derived by the spec from R160): the only step into IDLE, but for the power-on reset, is the clear step
of a dispatch, which records one recognised flag as cleared; and no other step records a flag as cleared or makes a
set flag of ISTR 0. -/
def Obligations.OnlyTheClearStepEndsADispatch : Prop :=
  ∀ s t : State,
    BlockInv s → step s = .next t → s.agenda.head? ≠ some .powerOn →
      (s.fsm ≠ .idle → t.fsm = .idle →
        s.fsm = .clear ∧ ∃ f, recognised f = true ∧ s.clr = flagBit f ∧ t.events = s.events ++ [.cleared f] ∧
          flagSet t.istr f = false) ∧
      (∀ f, t.events = s.events ++ [.cleared f] → s.fsm = .clear ∧ t.fsm = .idle) ∧
      (∀ f, flagSet s.istr f = true → flagSet t.istr f = false →
        s.fsm = .clear ∧ s.clr = flagBit f ∧ t.fsm = .idle)

/-- R176, R178 (derived by the spec from R162 to R172): no step of the block, from activation to clear, writes DADDR or
RESP; only the reset step writes the packet memory and the endpoint registers; only the clear step writes ISTR. -/
def Obligations.DispatchWritesOnlyItsOwn : Prop :=
  ∀ s t : State,
    step s = .next t → s.fsm ≠ .idle → s.agenda.head? ≠ some .powerOn →
    (∀ m, s.agenda.head? ≠ some (.peripheral m)) →
      t.daddr = s.daddr ∧ t.resp = s.resp ∧ (s.fsm ≠ .clear → t.istr = s.istr) ∧
        (s.fsm ≠ .resetAct → t.epr = s.epr ∧ ∀ a, readCell t a = readCell s a)

/-- R173, R37 (derived by the spec): the latches have no meaning in IDLE. Two idle states that differ in SNAPV, CLR
and CTXL only take the same step, to states that differ in those only, and agree on the latches a dispatch will read. -/
def Obligations.LatchesAreNotReadInIdle : Prop :=
  ∀ s t : State,
    s.fsm = .idle → withoutLatches s = withoutLatches t →
      (∀ s', step s = .next s' →
        ∃ t', step t = .next t' ∧ withoutLatches s' = withoutLatches t' ∧
          (s'.fsm ≠ .idle → s'.fsm ≠ .fault → s'.snapv = t'.snapv ∧ s'.ctxl = t'.ctxl) ∧
          (s'.fsm = .clear → s'.clr = t'.clr)) ∧
        (∀ r, step s = .fault r → step t = .fault r)

/-! ## Holding, faults and the ends of a run -/

/-- R10 (decision D1): while FSM is not IDLE no host command runs: no step but the power-on reset moves the stream
position or writes RESP. -/
def Obligations.CommandsAreHeldWhileBusy : Prop :=
  ∀ s t : State,
    s.fsm ≠ .idle → step s = .next t → s.agenda.head? ≠ some .powerOn →
      t.pos = s.pos ∧ t.resp = s.resp ∧ ∀ v, t.events ≠ s.events ++ [.resp v]

/-- R204 (derived by the spec from R203 and R160): a step that raises a fault leaves the packet memory, the endpoint
registers, ISTR, DADDR, RESP and the latches as they were, and records the fault's code and information in the fault
registers and in the history. -/
def Obligations.FaultsArePrecise : Prop :=
  ∀ s t : State,
    step s = .next t → s.fsm ≠ .fault → t.fsm = .fault →
      ∃ code info,
        { t with pos := s.pos } = faulted (faultByte code) code info { s with agenda := s.agenda.tail }

/-- R205, R236 (decisions D8, D39; R236 is derived by the spec): FAULT is left by the power-on reset only. Every other
step keeps FSM, the fault registers, RESP, DADDR, the latches, the history and the stream position; and with no turn
chosen there is no step at all. -/
def Obligations.FaultIsAbsorbing : Prop :=
  ∀ s : State,
    s.fsm = .fault →
      (∀ t, step s = .next t → s.agenda.head? ≠ some .powerOn →
        t.fsm = .fault ∧ t.faultCause = s.faultCause ∧ t.faultInfo = s.faultInfo ∧ t.resp = s.resp ∧
          t.daddr = s.daddr ∧ t.snapv = s.snapv ∧ t.clr = s.clr ∧ t.ctxl = s.ctxl ∧ t.events = s.events ∧
          t.pos = s.pos) ∧
        (s.agenda = [] → step s = .fault .halted)

/-- R205 (decision D39): the machine has no step exactly when no turn is chosen and the run is completed, halted or
stuck, each under its own name; it refuses nothing. -/
def Obligations.StepStopsExactlyAtTheEndsOfARun : Prop :=
  ∀ s : State,
    (step s = .fault .completed ↔ s.agenda = [] ∧ runCompleted s) ∧
      (step s = .fault .halted ↔ s.agenda = [] ∧ runHalted s) ∧
      (step s = .fault .stuck ↔ s.agenda = [] ∧ runStuck s) ∧ ∀ r, step s ≠ .refused r

/-- R36 (decision D3): a command that returns a value and does not fault writes it to RESP and to the history; a
command that returns nothing, or faults, leaves RESP; and no command writes ISTR, DADDR, the stream or its position
(R57, R215). -/
def Obligations.OnlyValueCommandsWriteResp : Prop :=
  ∀ (s t : State) (i : Instr),
    exec i s = .next t →
      (returnsValue i = true → t.fsm ≠ .fault → ∃ v, t.resp = v ∧ t.events = s.events ++ [.resp v]) ∧
        (returnsValue i = false → t.resp = s.resp) ∧
        (s.fsm ≠ .fault → t.fsm = .fault → t.resp = s.resp) ∧ t.istr = s.istr ∧ t.daddr = s.daddr ∧
        t.stream = s.stream ∧ t.pos = s.pos

/-! ## Decoding and the stream -/

/-- R70, R72, R73, R79: decoding the words of a well-formed command, whatever follows them in the stream, gives the
command with every operand, and its length. -/
def Obligations.DecodeInvertsEncode : Prop :=
  ∀ (i : Instr) (rest : List CmdWord),
    i.wellFormed = true → decode (encode i ++ rest) = .instr i (encode i).length

/-- R70, R74, R77: every decoded command is well formed and its command word is the one the encoder writes: no bit of
a command word is without meaning, and each command has one command word. -/
def Obligations.DecodedWordsAreEncodings : Prop :=
  ∀ (w : CmdWord) (rest : List CmdWord) (i : Instr) (n : Nat),
    decode (w :: rest) = .instr i n →
      i.wellFormed = true ∧ (encode i).head? = some w ∧ (encode i).length = n ∧ n ≤ rest.length + 1

/-- Words of R81, each written out from R70, decode to the commands they stand for. -/
def Obligations.SampleWordsDecode : Prop :=
  decode [0x010001C000000000#64] = .instr (.pmaGet 0x1C0) 1 ∧
    decode [0x030001C000020000#64, 0x0000000002001201#64] = .instr (.pmaWriteBuf 0x1C0 [0x1201, 0x0200]) 2 ∧
    decode [0x05000000000001C0#64] = .instr (.bdtSetTxAddr 0 0x1C0) 1 ∧
    decode [0x0B00004000000000#64] = .instr (.bdtSetRxSize 0 64) 1 ∧
    decode [0x0C00004000000000#64] = .instr (.pmaAlloc 64) 1 ∧
    decode [0x1100000000000280#64] = .instr (.epWrite 0 0x0280) 1 ∧
    decode [0x2000000000000000#64] = .instr .irqDispatch 1

/-- R10, R38: in IDLE, on the block's turn, the step runs the command decoded at the stream position, with its words
consumed. -/
def Obligations.StepRunsTheDecodedCommand : Prop :=
  ∀ (s : State) (i : Instr) (n : Nat),
    s.fsm = .idle → blocksTurn s → decode (s.stream.drop s.pos) = .instr i n →
      step s = exec i { s with agenda := s.agenda.tail, pos := min (s.pos + n) s.stream.length }

/-- R78: a command is one word, but PMA_WRITE_BUF, which is 1 + ⌈B / 4⌉ words, and the position advances by the
command's length when the command completes or faults. -/
def Obligations.PositionAdvancesByTheCommandLength : Prop :=
  ∀ (s : State) (w : CmdWord) (rest : List CmdWord) (i : Instr) (n : Nat),
    s.fsm = .idle → blocksTurn s → pending s = w :: rest → decode (w :: rest) = .instr i n →
      n = (if (fieldOp w).toNat = 3 then 1 + ((fieldB w).toNat + 3) / 4 else 1) ∧
        ∃ t, step s = .next t ∧ t.pos = s.pos + n

/-- R75 (decision D11): the opcode values 0x00, 0x0D to 0x0F, 0x13 to 0x1F and 0x21 to 0xFF, and no others, are
illegal; a command word with one of them raises ILLEGAL_COMMAND with the opcode, and is consumed. -/
def Obligations.IllegalOpcodesFault : Prop :=
  ∀ (s : State) (w : CmdWord) (rest : List CmdWord),
    s.fsm = .idle → blocksTurn s → pending s = w :: rest →
      (decode (w :: rest) = .reject (.illegalCommand (fieldOp w)) ↔
        (fieldOp w).toNat = 0 ∨ (0x0D ≤ (fieldOp w).toNat ∧ (fieldOp w).toNat ≤ 0x0F) ∨
          (0x13 ≤ (fieldOp w).toNat ∧ (fieldOp w).toNat ≤ 0x1F) ∨ 0x21 ≤ (fieldOp w).toNat) ∧
      ((fieldOp w).toNat = 0 ∨ (0x0D ≤ (fieldOp w).toNat ∧ (fieldOp w).toNat ≤ 0x0F) ∨
          (0x13 ≤ (fieldOp w).toNat ∧ (fieldOp w).toNat ≤ 0x1F) ∨ 0x21 ≤ (fieldOp w).toNat →
        step s = .next (faulted 0x33 .illegalCommand (BitVec.ofNat 16 (fieldOp w).toNat)
          { s with agenda := s.agenda.tail, pos := s.pos + 1 }))

/-- R74, R76 (decisions D10, D11): a command word of the map with a nonzero field its row does not use raises
RESERVED_NONZERO with the opcode, before any other check of R76, and changes nothing else but the position. That the
check comes before the question whether the payload words of a PMA_WRITE_BUF are present, so that a word with both
defects faults and is not stuck, is the model's choice (log entry 5, DEDUCED); R72 and R76 do not say it. -/
def Obligations.ReservedFieldsFault : Prop :=
  ∀ (s : State) (w : CmdWord) (rest : List CmdWord) (op : Opcode),
    s.fsm = .idle → blocksTurn s → pending s = w :: rest → fieldOp w = opcodeByte op →
    ((opcodeUses op).idx = false ∧ fieldIdx w ≠ 0 ∨ (opcodeUses op).a = false ∧ fieldA w ≠ 0 ∨
      (opcodeUses op).b = false ∧ fieldB w ≠ 0 ∨ (opcodeUses op).v = false ∧ fieldV w ≠ 0) →
      ∃ t, step s = .next t ∧ s.pos < t.pos ∧
        { t with pos := s.pos } =
          faulted 0x34 .reservedNonzero (BitVec.ofNat 16 (fieldOp w).toNat) { s with agenda := s.agenda.tail }

/-- R72 (decision D24): a PMA_WRITE_BUF whose payload words are not all in the stream never completes. With no turn
chosen (agenda = []) and no automatic activation enabled the run is stuck (R205). That a turn chosen for the block,
which has no step, passes with nothing changed but the agenda is the model's choice (log entry 14, DESIGN CHOICE), and
so is that a word whose range does not fit is held too and does not fault PMA_RANGE (log entry 5, DESIGN CHOICE). -/
def Obligations.MissingPayloadIsStuck : Prop :=
  ∀ (s : State) (w : CmdWord) (rest : List CmdWord),
    s.fsm = .idle → pending s = w :: rest → fieldOp w = 0x03 → fieldIdx w = 0 → fieldV w = 0 →
    rest.length < ((fieldB w).toNat + 3) / 4 →
      (s.agenda.head? = some .block → step s = .next { s with agenda := s.agenda.tail }) ∧
        (s.agenda = [] → autoEnabled s = false → step s = .fault .stuck)

/-- R5, R38, R63 (decision D31): no step changes the host command stream or the parameters, and but for the power-on
reset the position never goes back. -/
def Obligations.StreamIsNeverWritten : Prop :=
  ∀ s t : State,
    BlockInv s → step s = .next t →
      t.stream = s.stream ∧ t.params = s.params ∧ (s.agenda.head? ≠ some .powerOn → s.pos ≤ t.pos)

/-! ## The interrupt line and the other agents -/

/-- R40, R208 (decision D15): the interrupt line is asserted while any flag, recognised or other, is pending, and by
nothing else in ISTR. -/
def Obligations.InterruptLineFollowsTheFlags : Prop :=
  ∀ v : Halfword, irqLine v = true ↔ ∃ f, flagSet v f = true

/-- R209 (decision D16): an automatic activation, when IRQ_AUTO is true, FSM is IDLE and the line is asserted, does
what IRQ_DISPATCH does, between any two commands, whenever its turn is chosen. That it is taken when no turn is chosen
and the stream is consumed is the model's default order (log entry 3, DESIGN CHOICE), and that a turn chosen for it
where it is not enabled passes is the model's choice (log entry 14, DESIGN CHOICE). -/
def Obligations.AutomaticActivation : Prop :=
  ∀ s : State,
    (s.agenda.head? = some .activation ∨ (s.agenda = [] ∧ pending s = []) → s.fsm = .idle →
      s.params.irqAuto = true → irqLine s.istr = true →
        step s = exec .irqDispatch { s with agenda := s.agenda.tail }) ∧
      (s.agenda.head? = some .activation →
        s.fsm ≠ .idle ∨ s.params.irqAuto = false ∨ irqLine s.istr = false →
          step s = .next { s with agenda := s.agenda.tail })

/-- R212 P1, P2 (decision D28): the peripheral's moves on ISTR set one flag, or write bits 7:0, and change nothing
else. -/
def Obligations.PeripheralMovesOnIstr : Prop :=
  ∀ s : State,
    (∀ f, s.agenda.head? = some (.peripheral (.setFlag f)) →
      ∃ t, step s = .next t ∧
        (∀ j : Fin 16, t.istr.getLsbD j.val = (decide (j.val = (flagBit f).toNat) || s.istr.getLsbD j.val)) ∧
        { t with istr := s.istr } = { s with agenda := s.agenda.tail }) ∧
      (∀ v, s.agenda.head? = some (.peripheral (.setIdDir v)) →
        ∃ t, step s = .next t ∧
          (∀ j : Fin 16, t.istr.getLsbD j.val = if j.val < 8 then v.getLsbD j.val else s.istr.getLsbD j.val) ∧
          { t with istr := s.istr } = { s with agenda := s.agenda.tail })

/-- R212 P3a to P3c (decision D28): the peripheral's moves on an endpoint register, bit by bit; the other registers and
all other state stay. -/
def Obligations.PeripheralMovesOnEndpoints : Prop :=
  ∀ (s : State) (i : Fin 8),
    (∀ setup, s.agenda.head? = some (.peripheral (.rxDone i setup)) →
      ∃ t, step s = .next t ∧
        (∀ j : Fin 16, t.epr[i.val].getLsbD j.val =
          if j.val = 15 then true else if j.val = 11 then setup else s.epr[i.val].getLsbD j.val) ∧
        (∀ k : Fin 8, k ≠ i → t.epr[k.val] = s.epr[k.val]) ∧
        { t with epr := s.epr } = { s with agenda := s.agenda.tail }) ∧
      (s.agenda.head? = some (.peripheral (.txDone i)) →
        ∃ t, step s = .next t ∧
          (∀ j : Fin 16, t.epr[i.val].getLsbD j.val = if j.val = 7 then true else s.epr[i.val].getLsbD j.val) ∧
          (∀ k : Fin 8, k ≠ i → t.epr[k.val] = s.epr[k.val]) ∧
          { t with epr := s.epr } = { s with agenda := s.agenda.tail }) ∧
      (∀ d, s.agenda.head? = some (.peripheral (.setState i d)) →
        ∃ t, step s = .next t ∧
          (∀ j : Fin 16, t.epr[i.val].getLsbD j.val =
            if j.val = 14 ∨ j.val = 13 ∨ j.val = 12 ∨ j.val = 6 ∨ j.val = 5 ∨ j.val = 4 then d.getLsbD j.val
            else s.epr[i.val].getLsbD j.val) ∧
          (∀ k : Fin 8, k ≠ i → t.epr[k.val] = s.epr[k.val]) ∧
          { t with epr := s.epr } = { s with agenda := s.agenda.tail })

/-- R212 P4a, P4b, P5 (decision D28): the peripheral's moves on the packet memory write one arena cell, or the low ten
bits of one RX count cell; so the BDT but for those bits is never written by the peripheral. R212 has no WriteCell
outside the arena; that one the agenda names for a cell outside [64, 512) changes nothing is the model's choice (log
entry 14, DESIGN CHOICE). -/
def Obligations.PeripheralMovesOnPacketMemory : Prop :=
  ∀ s : State,
    (∀ k v, s.agenda.head? = some (.peripheral (.writeCell k v)) →
      ∃ t, step s = .next t ∧
        (∀ a, readCell t a = if a = k ∧ 64 ≤ k ∧ k < 512 then v else readCell s a) ∧
        { t with pma := s.pma } = { s with agenda := s.agenda.tail }) ∧
      (∀ (e : Fin 8) c, s.agenda.head? = some (.peripheral (.writeRxCount e c)) →
        ∃ t, step s = .next t ∧
          (∀ j : Fin 16, (readCell t (8 * e.val + 6)).getLsbD j.val =
            if j.val < 10 then c.getLsbD j.val else (readCell s (8 * e.val + 6)).getLsbD j.val) ∧
          (∀ a, a ≠ 8 * e.val + 6 → readCell t a = readCell s a) ∧
          { t with pma := s.pma } = { s with agenda := s.agenda.tail })

/-- R212 WB2 of R213, R246 (decision D34): with a well-behaved peripheral, once EP_ID names an endpoint whenever CTR
is pending, it always does, and no evaluate step raises EP_RANGE. -/
def Obligations.WellBehavedEpIdStaysInRange : Prop :=
  ∀ s t : State,
    EpIdNamesEndpoint s → nextMoveWellBehaved s → step s = .next t →
      EpIdNamesEndpoint t ∧
        (s.fsm = .ctrEval → ∀ info, t.events ≠ s.events ++ [.fault .epRange info])

/-! ## Reset and invariants -/

/-- R41, R231 (decision D29; ISTR and DADDR are general knowledge there): the state after reset, element by element;
every cell of the packet memory is a draw. -/
def Obligations.PowerOnValues : Prop :=
  (∀ i : Fin 8, State.reset.epr[i.val] = 0x0000) ∧ State.reset.istr = 0x0000 ∧ State.reset.daddr = 0x0000 ∧
    State.reset.resp = 0x0000 ∧ State.reset.fsm = .idle ∧ State.reset.snapv = 0 ∧ State.reset.clr = 0 ∧
    State.reset.ctxl = none ∧ State.reset.faultCause = 0 ∧ State.reset.faultInfo = 0 ∧ State.reset.events = [] ∧
    State.reset.pos = 0 ∧ (∀ a, readCell State.reset a = Config.drawCell State.reset.drawEpoch a) ∧
    State.reset.params.txCheckFixed = false ∧ State.reset.params.irqAuto = true

/-- R231 (decision D29): the power-on reset sets every element of the state to its power-on value from any state, FAULT
included, and leaves the stream and the parameters. -/
def Obligations.PowerOnResetsEverything : Prop :=
  ∀ s : State,
    s.agenda.head? = some .powerOn →
      ∃ t, step s = .next t ∧
        (∀ a, readCell t a = Config.drawCell (s.drawEpoch + 1) a) ∧
        { t with pma := [], drawEpoch := State.reset.drawEpoch } =
          { State.reset with stream := s.stream, params := s.params, agenda := s.agenda.tail }

/-- The invariant holds at reset. -/
def Obligations.ResetMeetsTheInvariant : Prop := BlockInv State.reset

/-- Every step of every agent keeps the invariant: the packet memory in its canonical form, the position inside the
stream, the fault registers in step with FSM and the history, the latches as the dispatcher's state needs them. -/
def Obligations.EveryStepKeepsTheInvariant : Prop :=
  ∀ s t : State, BlockInv s → step s = .next t → BlockInv t

/-! ## The event handler's interface data -/

/-- R191, R192: `new` packs major in bits 15:8, minor in bits 7:4 and revision in bits 3:0, each truncated to its
field, and the extraction functions read the fields of any version word; so (R193, derived by the spec) extraction
gives back each input modulo its field. -/
def Obligations.UsbVersionFields : Prop :=
  (∀ major minor revision : Nat,
    (usbVersion major minor revision).toNat = major % 256 * 256 + minor % 16 * 16 + revision % 16 ∧
      versionMajor (usbVersion major minor revision) = major % 256 ∧
      versionMinor (usbVersion major minor revision) = minor % 16 ∧
      versionRevision (usbVersion major minor revision) = revision % 16) ∧
    (∀ v : BitVec 16,
      versionMajor v = v.toNat / 256 ∧ versionMinor v = v.toNat / 16 % 16 ∧ versionRevision v = v.toNat % 16)

/-- R194 (decision D38) and R195 (the offsets and the byte order are general knowledge there): the power rating stored
and read; and a serialised descriptor has 18 bytes, each field at its offset, a 16-bit field's least significant byte
first. -/
def Obligations.PowerAndDescriptorFormats : Prop :=
  (∀ mA : Nat, powerRead (powerStore mA) = mA / 2 % 256 * 2) ∧
    ∀ d : DeviceDescriptor,
      (descriptorBytes d).length = 18 ∧ (descriptorBytes d)[0]? = some 18 ∧ (descriptorBytes d)[1]? = some 1 ∧
        (descriptorBytes d)[2]? = some (d.bcdUSB.extractLsb' 0 8) ∧
        (descriptorBytes d)[3]? = some (d.bcdUSB.extractLsb' 8 8) ∧
        (descriptorBytes d)[4]? = some d.bDeviceClass ∧ (descriptorBytes d)[5]? = some d.bDeviceSubClass ∧
        (descriptorBytes d)[6]? = some d.bDeviceProtocol ∧ (descriptorBytes d)[7]? = some d.bMaxPacketSize0 ∧
        (descriptorBytes d)[8]? = some (d.idVendor.extractLsb' 0 8) ∧
        (descriptorBytes d)[9]? = some (d.idVendor.extractLsb' 8 8) ∧
        (descriptorBytes d)[10]? = some (d.idProduct.extractLsb' 0 8) ∧
        (descriptorBytes d)[11]? = some (d.idProduct.extractLsb' 8 8) ∧
        (descriptorBytes d)[12]? = some (d.bcdDevice.extractLsb' 0 8) ∧
        (descriptorBytes d)[13]? = some (d.bcdDevice.extractLsb' 8 8) ∧
        (descriptorBytes d)[14]? = some d.iManufacturer ∧ (descriptorBytes d)[15]? = some d.iProduct ∧
        (descriptorBytes d)[16]? = some d.iSerialNumber ∧ (descriptorBytes d)[17]? = some d.bNumConfigurations
end

