-- ==== Sys2Proof/Laws/Decode.lean ====
section
/-! SUPPORT. The small facts of the encoding: the opcode map and its inverse, and the fields of an encoded word. -/

namespace Sys2Proof

@[simp] theorem opcodeOfByte_opcodeByte (op : Opcode) : opcodeOfByte (opcodeByte op) = some op := by
  cases op <;> rfl

/-- No two rows share an opcode, and a byte selects a row exactly when it is that row's (R77). -/
theorem opcodeOfByte_eq_some {b : Byte} {op : Opcode} : opcodeOfByte b = some op ↔ b = opcodeByte op := by
  cases op <;> revert b <;> decide

@[simp] theorem fieldOp_commandWord (op : Opcode) (i : Byte) (a b v : Halfword) :
    fieldOp (commandWord op i a b v) = opcodeByte op := by
  ext j hj
  simp only [fieldOp, commandWord, BitVec.getElem_extractLsb', BitVec.getLsbD_append]
  simp [show ¬56 + j < 16 by omega, show ¬56 + j - 16 < 16 by omega, show ¬56 + j - 16 - 16 < 16 by omega,
    show ¬56 + j - 16 - 16 - 16 < 8 by omega, show 56 + j - 16 - 16 - 16 - 8 = j by omega,
    BitVec.getLsbD_eq_getElem hj]

@[simp] theorem fieldIdx_commandWord (op : Opcode) (i : Byte) (a b v : Halfword) :
    fieldIdx (commandWord op i a b v) = i := by
  ext j hj
  simp only [fieldIdx, commandWord, BitVec.getElem_extractLsb', BitVec.getLsbD_append]
  simp [show ¬48 + j < 16 by omega, show ¬48 + j - 16 < 16 by omega, show ¬48 + j - 16 - 16 < 16 by omega,
    show 48 + j - 16 - 16 - 16 = j by omega, hj]

@[simp] theorem fieldA_commandWord (op : Opcode) (i : Byte) (a b v : Halfword) :
    fieldA (commandWord op i a b v) = a := by
  ext j hj
  simp only [fieldA, commandWord, BitVec.getElem_extractLsb', BitVec.getLsbD_append]
  simp [show ¬32 + j < 16 by omega, show ¬32 + j - 16 < 16 by omega,
    show 32 + j - 16 - 16 = j by omega, hj]

@[simp] theorem fieldB_commandWord (op : Opcode) (i : Byte) (a b v : Halfword) :
    fieldB (commandWord op i a b v) = b := by
  ext j hj
  simp only [fieldB, commandWord, BitVec.getElem_extractLsb', BitVec.getLsbD_append]
  simp [show ¬16 + j < 16 by omega, show 16 + j - 16 = j by omega, hj]

@[simp] theorem fieldV_commandWord (op : Opcode) (i : Byte) (a b v : Halfword) :
    fieldV (commandWord op i a b v) = v := by
  ext j hj
  simp only [fieldV, commandWord, BitVec.getElem_extractLsb', BitVec.getLsbD_append]
  simp [hj]

/-- P = ⌈LEN / 4⌉ words (R72). -/
theorem length_packHalfwords (d : List Halfword) : (packHalfwords d).length = (d.length + 3) / 4 := by
  induction d using packHalfwords.induct with
  | case1 => rfl
  | case2 => simp [packHalfwords]
  | case3 => simp [packHalfwords]
  | case4 => simp [packHalfwords]
  | case5 a b c d rest ih => simp only [packHalfwords, List.length_cons, ih]; omega

theorem wordHalfwords_payloadWord (a b c d : Halfword) : wordHalfwords (payloadWord a b c d) = [a, b, c, d] := by
  have h0 : (payloadWord a b c d).extractLsb' 0 16 = a := by
    ext j hj
    simp only [payloadWord, BitVec.getElem_extractLsb', BitVec.getLsbD_append]
    simp [hj]
  have h1 : (payloadWord a b c d).extractLsb' 16 16 = b := by
    ext j hj
    simp only [payloadWord, BitVec.getElem_extractLsb', BitVec.getLsbD_append]
    simp [show ¬16 + j < 16 by omega, show 16 + j - 16 = j by omega, hj]
  have h2 : (payloadWord a b c d).extractLsb' 32 16 = c := by
    ext j hj
    simp only [payloadWord, BitVec.getElem_extractLsb', BitVec.getLsbD_append]
    simp [show ¬32 + j < 16 by omega, show ¬32 + j - 16 < 16 by omega,
      show 32 + j - 16 - 16 = j by omega, hj]
  have h3 : (payloadWord a b c d).extractLsb' 48 16 = d := by
    ext j hj
    simp only [payloadWord, BitVec.getElem_extractLsb', BitVec.getLsbD_append]
    simp [show ¬48 + j < 16 by omega, show ¬48 + j - 16 < 16 by omega, show ¬48 + j - 16 - 16 < 16 by omega,
      show 48 + j - 16 - 16 - 16 = j by omega, hj]
  simp [wordHalfwords, h0, h1, h2, h3]

/-- Unpacking packed halfwords gives them back. -/
theorem unpack_pack (d : List Halfword) : unpackHalfwords d.length (packHalfwords d) = d := by
  induction d using packHalfwords.induct with
  | case1 => rfl
  | case2 => simp [packHalfwords, unpackHalfwords, wordHalfwords_payloadWord]
  | case3 => simp [packHalfwords, unpackHalfwords, wordHalfwords_payloadWord]
  | case4 => simp [packHalfwords, unpackHalfwords, wordHalfwords_payloadWord]
  | case5 a b c d rest ih =>
    simp only [unpackHalfwords] at ih
    simp [packHalfwords, unpackHalfwords, wordHalfwords_payloadWord, ih]

end Sys2Proof
end

