-- ==== Sys2Proof/Laws/State.lean ====
section
/-! SUPPORT. One lemma per field of State and per shared update: what the update leaves in the field. -/

namespace Sys2Proof.Machine

/-- The index of an endpoint register as a plain number. -/
theorem readEpr_eq (s : State) (i : Fin 8) : readEpr s i = s.epr[i.val] := rfl

/-! ## `MemWrite` (R9) -/

@[simp] theorem writeCell_pma (k : Nat) (v : Halfword) (s : State) : (writeCell k v s).pma = s.pma.write k v := rfl
@[simp] theorem writeCell_drawEpoch (k : Nat) (v : Halfword) (s : State) :
    (writeCell k v s).drawEpoch = s.drawEpoch := rfl
@[simp] theorem writeCell_epr (k : Nat) (v : Halfword) (s : State) : (writeCell k v s).epr = s.epr := rfl
@[simp] theorem writeCell_istr (k : Nat) (v : Halfword) (s : State) : (writeCell k v s).istr = s.istr := rfl
@[simp] theorem writeCell_daddr (k : Nat) (v : Halfword) (s : State) : (writeCell k v s).daddr = s.daddr := rfl
@[simp] theorem writeCell_resp (k : Nat) (v : Halfword) (s : State) : (writeCell k v s).resp = s.resp := rfl
@[simp] theorem writeCell_fsm (k : Nat) (v : Halfword) (s : State) : (writeCell k v s).fsm = s.fsm := rfl
@[simp] theorem writeCell_snapv (k : Nat) (v : Halfword) (s : State) : (writeCell k v s).snapv = s.snapv := rfl
@[simp] theorem writeCell_clr (k : Nat) (v : Halfword) (s : State) : (writeCell k v s).clr = s.clr := rfl
@[simp] theorem writeCell_ctxl (k : Nat) (v : Halfword) (s : State) : (writeCell k v s).ctxl = s.ctxl := rfl
@[simp] theorem writeCell_faultCause (k : Nat) (v : Halfword) (s : State) :
    (writeCell k v s).faultCause = s.faultCause := rfl
@[simp] theorem writeCell_faultInfo (k : Nat) (v : Halfword) (s : State) :
    (writeCell k v s).faultInfo = s.faultInfo := rfl
@[simp] theorem writeCell_events (k : Nat) (v : Halfword) (s : State) : (writeCell k v s).events = s.events := rfl
@[simp] theorem writeCell_stream (k : Nat) (v : Halfword) (s : State) : (writeCell k v s).stream = s.stream := rfl
@[simp] theorem writeCell_pos (k : Nat) (v : Halfword) (s : State) : (writeCell k v s).pos = s.pos := rfl
@[simp] theorem writeCell_params (k : Nat) (v : Halfword) (s : State) : (writeCell k v s).params = s.params := rfl
@[simp] theorem writeCell_agenda (k : Nat) (v : Halfword) (s : State) : (writeCell k v s).agenda = s.agenda := rfl

/-! ## the writes of R102 -/

@[simp] theorem writeCells_pma (b : Nat) (d : List Halfword) (s : State) :
    (writeCells b d s).pma = s.pma.writeList b d := rfl
@[simp] theorem writeCells_drawEpoch (b : Nat) (d : List Halfword) (s : State) :
    (writeCells b d s).drawEpoch = s.drawEpoch := rfl
@[simp] theorem writeCells_epr (b : Nat) (d : List Halfword) (s : State) : (writeCells b d s).epr = s.epr := rfl
@[simp] theorem writeCells_istr (b : Nat) (d : List Halfword) (s : State) : (writeCells b d s).istr = s.istr := rfl
@[simp] theorem writeCells_daddr (b : Nat) (d : List Halfword) (s : State) : (writeCells b d s).daddr = s.daddr := rfl
@[simp] theorem writeCells_resp (b : Nat) (d : List Halfword) (s : State) : (writeCells b d s).resp = s.resp := rfl
@[simp] theorem writeCells_fsm (b : Nat) (d : List Halfword) (s : State) : (writeCells b d s).fsm = s.fsm := rfl
@[simp] theorem writeCells_snapv (b : Nat) (d : List Halfword) (s : State) : (writeCells b d s).snapv = s.snapv := rfl
@[simp] theorem writeCells_clr (b : Nat) (d : List Halfword) (s : State) : (writeCells b d s).clr = s.clr := rfl
@[simp] theorem writeCells_ctxl (b : Nat) (d : List Halfword) (s : State) : (writeCells b d s).ctxl = s.ctxl := rfl
@[simp] theorem writeCells_faultCause (b : Nat) (d : List Halfword) (s : State) :
    (writeCells b d s).faultCause = s.faultCause := rfl
@[simp] theorem writeCells_faultInfo (b : Nat) (d : List Halfword) (s : State) :
    (writeCells b d s).faultInfo = s.faultInfo := rfl
@[simp] theorem writeCells_events (b : Nat) (d : List Halfword) (s : State) :
    (writeCells b d s).events = s.events := rfl
@[simp] theorem writeCells_stream (b : Nat) (d : List Halfword) (s : State) :
    (writeCells b d s).stream = s.stream := rfl
@[simp] theorem writeCells_pos (b : Nat) (d : List Halfword) (s : State) : (writeCells b d s).pos = s.pos := rfl
@[simp] theorem writeCells_params (b : Nat) (d : List Halfword) (s : State) :
    (writeCells b d s).params = s.params := rfl
@[simp] theorem writeCells_agenda (b : Nat) (d : List Halfword) (s : State) :
    (writeCells b d s).agenda = s.agenda := rfl

/-! ## the internal register write (R9) -/

@[simp] theorem setEpr_pma (i : Fin 8) (v : Halfword) (s : State) : (setEpr i v s).pma = s.pma := rfl
@[simp] theorem setEpr_drawEpoch (i : Fin 8) (v : Halfword) (s : State) :
    (setEpr i v s).drawEpoch = s.drawEpoch := rfl
@[simp] theorem setEpr_epr (i : Fin 8) (v : Halfword) (s : State) : (setEpr i v s).epr = s.epr.set i v := rfl
@[simp] theorem setEpr_istr (i : Fin 8) (v : Halfword) (s : State) : (setEpr i v s).istr = s.istr := rfl
@[simp] theorem setEpr_daddr (i : Fin 8) (v : Halfword) (s : State) : (setEpr i v s).daddr = s.daddr := rfl
@[simp] theorem setEpr_resp (i : Fin 8) (v : Halfword) (s : State) : (setEpr i v s).resp = s.resp := rfl
@[simp] theorem setEpr_fsm (i : Fin 8) (v : Halfword) (s : State) : (setEpr i v s).fsm = s.fsm := rfl
@[simp] theorem setEpr_snapv (i : Fin 8) (v : Halfword) (s : State) : (setEpr i v s).snapv = s.snapv := rfl
@[simp] theorem setEpr_clr (i : Fin 8) (v : Halfword) (s : State) : (setEpr i v s).clr = s.clr := rfl
@[simp] theorem setEpr_ctxl (i : Fin 8) (v : Halfword) (s : State) : (setEpr i v s).ctxl = s.ctxl := rfl
@[simp] theorem setEpr_faultCause (i : Fin 8) (v : Halfword) (s : State) :
    (setEpr i v s).faultCause = s.faultCause := rfl
@[simp] theorem setEpr_faultInfo (i : Fin 8) (v : Halfword) (s : State) :
    (setEpr i v s).faultInfo = s.faultInfo := rfl
@[simp] theorem setEpr_events (i : Fin 8) (v : Halfword) (s : State) : (setEpr i v s).events = s.events := rfl
@[simp] theorem setEpr_stream (i : Fin 8) (v : Halfword) (s : State) : (setEpr i v s).stream = s.stream := rfl
@[simp] theorem setEpr_pos (i : Fin 8) (v : Halfword) (s : State) : (setEpr i v s).pos = s.pos := rfl
@[simp] theorem setEpr_params (i : Fin 8) (v : Halfword) (s : State) : (setEpr i v s).params = s.params := rfl
@[simp] theorem setEpr_agenda (i : Fin 8) (v : Halfword) (s : State) : (setEpr i v s).agenda = s.agenda := rfl

/-! ## the host's register write (R142) -/

@[simp] theorem hostWriteEpr_pma (i : Fin 8) (w : Halfword) (s : State) : (hostWriteEpr i w s).pma = s.pma := rfl
@[simp] theorem hostWriteEpr_drawEpoch (i : Fin 8) (w : Halfword) (s : State) :
    (hostWriteEpr i w s).drawEpoch = s.drawEpoch := rfl
@[simp] theorem hostWriteEpr_epr (i : Fin 8) (w : Halfword) (s : State) :
    (hostWriteEpr i w s).epr = s.epr.set i (epWriteValue (readEpr s i) w) := rfl
@[simp] theorem hostWriteEpr_istr (i : Fin 8) (w : Halfword) (s : State) : (hostWriteEpr i w s).istr = s.istr := rfl
@[simp] theorem hostWriteEpr_daddr (i : Fin 8) (w : Halfword) (s : State) :
    (hostWriteEpr i w s).daddr = s.daddr := rfl
@[simp] theorem hostWriteEpr_resp (i : Fin 8) (w : Halfword) (s : State) : (hostWriteEpr i w s).resp = s.resp := rfl
@[simp] theorem hostWriteEpr_fsm (i : Fin 8) (w : Halfword) (s : State) : (hostWriteEpr i w s).fsm = s.fsm := rfl
@[simp] theorem hostWriteEpr_snapv (i : Fin 8) (w : Halfword) (s : State) :
    (hostWriteEpr i w s).snapv = s.snapv := rfl
@[simp] theorem hostWriteEpr_clr (i : Fin 8) (w : Halfword) (s : State) : (hostWriteEpr i w s).clr = s.clr := rfl
@[simp] theorem hostWriteEpr_ctxl (i : Fin 8) (w : Halfword) (s : State) : (hostWriteEpr i w s).ctxl = s.ctxl := rfl
@[simp] theorem hostWriteEpr_faultCause (i : Fin 8) (w : Halfword) (s : State) :
    (hostWriteEpr i w s).faultCause = s.faultCause := rfl
@[simp] theorem hostWriteEpr_faultInfo (i : Fin 8) (w : Halfword) (s : State) :
    (hostWriteEpr i w s).faultInfo = s.faultInfo := rfl
@[simp] theorem hostWriteEpr_events (i : Fin 8) (w : Halfword) (s : State) :
    (hostWriteEpr i w s).events = s.events := rfl
@[simp] theorem hostWriteEpr_stream (i : Fin 8) (w : Halfword) (s : State) :
    (hostWriteEpr i w s).stream = s.stream := rfl
@[simp] theorem hostWriteEpr_pos (i : Fin 8) (w : Halfword) (s : State) : (hostWriteEpr i w s).pos = s.pos := rfl
@[simp] theorem hostWriteEpr_params (i : Fin 8) (w : Halfword) (s : State) :
    (hostWriteEpr i w s).params = s.params := rfl
@[simp] theorem hostWriteEpr_agenda (i : Fin 8) (w : Halfword) (s : State) :
    (hostWriteEpr i w s).agenda = s.agenda := rfl

/-! ## `emit` (R11) -/

@[simp] theorem emit_pma (e : Event) (s : State) : (emit e s).pma = s.pma := rfl
@[simp] theorem emit_drawEpoch (e : Event) (s : State) : (emit e s).drawEpoch = s.drawEpoch := rfl
@[simp] theorem emit_epr (e : Event) (s : State) : (emit e s).epr = s.epr := rfl
@[simp] theorem emit_istr (e : Event) (s : State) : (emit e s).istr = s.istr := rfl
@[simp] theorem emit_daddr (e : Event) (s : State) : (emit e s).daddr = s.daddr := rfl
@[simp] theorem emit_resp (e : Event) (s : State) : (emit e s).resp = s.resp := rfl
@[simp] theorem emit_fsm (e : Event) (s : State) : (emit e s).fsm = s.fsm := rfl
@[simp] theorem emit_snapv (e : Event) (s : State) : (emit e s).snapv = s.snapv := rfl
@[simp] theorem emit_clr (e : Event) (s : State) : (emit e s).clr = s.clr := rfl
@[simp] theorem emit_ctxl (e : Event) (s : State) : (emit e s).ctxl = s.ctxl := rfl
@[simp] theorem emit_faultCause (e : Event) (s : State) : (emit e s).faultCause = s.faultCause := rfl
@[simp] theorem emit_faultInfo (e : Event) (s : State) : (emit e s).faultInfo = s.faultInfo := rfl
@[simp] theorem emit_events (e : Event) (s : State) : (emit e s).events = s.events ++ [e] := rfl
@[simp] theorem emit_stream (e : Event) (s : State) : (emit e s).stream = s.stream := rfl
@[simp] theorem emit_pos (e : Event) (s : State) : (emit e s).pos = s.pos := rfl
@[simp] theorem emit_params (e : Event) (s : State) : (emit e s).params = s.params := rfl
@[simp] theorem emit_agenda (e : Event) (s : State) : (emit e s).agenda = s.agenda := rfl

/-! ## the response (R36) -/

@[simp] theorem respond_pma (v : Halfword) (s : State) : (respond v s).pma = s.pma := rfl
@[simp] theorem respond_drawEpoch (v : Halfword) (s : State) : (respond v s).drawEpoch = s.drawEpoch := rfl
@[simp] theorem respond_epr (v : Halfword) (s : State) : (respond v s).epr = s.epr := rfl
@[simp] theorem respond_istr (v : Halfword) (s : State) : (respond v s).istr = s.istr := rfl
@[simp] theorem respond_daddr (v : Halfword) (s : State) : (respond v s).daddr = s.daddr := rfl
@[simp] theorem respond_resp (v : Halfword) (s : State) : (respond v s).resp = v := rfl
@[simp] theorem respond_fsm (v : Halfword) (s : State) : (respond v s).fsm = s.fsm := rfl
@[simp] theorem respond_snapv (v : Halfword) (s : State) : (respond v s).snapv = s.snapv := rfl
@[simp] theorem respond_clr (v : Halfword) (s : State) : (respond v s).clr = s.clr := rfl
@[simp] theorem respond_ctxl (v : Halfword) (s : State) : (respond v s).ctxl = s.ctxl := rfl
@[simp] theorem respond_faultCause (v : Halfword) (s : State) : (respond v s).faultCause = s.faultCause := rfl
@[simp] theorem respond_faultInfo (v : Halfword) (s : State) : (respond v s).faultInfo = s.faultInfo := rfl
@[simp] theorem respond_events (v : Halfword) (s : State) : (respond v s).events = s.events ++ [.resp v] := rfl
@[simp] theorem respond_stream (v : Halfword) (s : State) : (respond v s).stream = s.stream := rfl
@[simp] theorem respond_pos (v : Halfword) (s : State) : (respond v s).pos = s.pos := rfl
@[simp] theorem respond_params (v : Halfword) (s : State) : (respond v s).params = s.params := rfl
@[simp] theorem respond_agenda (v : Halfword) (s : State) : (respond v s).agenda = s.agenda := rfl

/-! ## consuming words of the stream (R38) -/

@[simp] theorem consume_pma (n : Nat) (s : State) : (consume n s).pma = s.pma := rfl
@[simp] theorem consume_drawEpoch (n : Nat) (s : State) : (consume n s).drawEpoch = s.drawEpoch := rfl
@[simp] theorem consume_epr (n : Nat) (s : State) : (consume n s).epr = s.epr := rfl
@[simp] theorem consume_istr (n : Nat) (s : State) : (consume n s).istr = s.istr := rfl
@[simp] theorem consume_daddr (n : Nat) (s : State) : (consume n s).daddr = s.daddr := rfl
@[simp] theorem consume_resp (n : Nat) (s : State) : (consume n s).resp = s.resp := rfl
@[simp] theorem consume_fsm (n : Nat) (s : State) : (consume n s).fsm = s.fsm := rfl
@[simp] theorem consume_snapv (n : Nat) (s : State) : (consume n s).snapv = s.snapv := rfl
@[simp] theorem consume_clr (n : Nat) (s : State) : (consume n s).clr = s.clr := rfl
@[simp] theorem consume_ctxl (n : Nat) (s : State) : (consume n s).ctxl = s.ctxl := rfl
@[simp] theorem consume_faultCause (n : Nat) (s : State) : (consume n s).faultCause = s.faultCause := rfl
@[simp] theorem consume_faultInfo (n : Nat) (s : State) : (consume n s).faultInfo = s.faultInfo := rfl
@[simp] theorem consume_events (n : Nat) (s : State) : (consume n s).events = s.events := rfl
@[simp] theorem consume_stream (n : Nat) (s : State) : (consume n s).stream = s.stream := rfl
@[simp] theorem consume_pos (n : Nat) (s : State) : (consume n s).pos = min (s.pos + n) s.stream.length := rfl
@[simp] theorem consume_params (n : Nat) (s : State) : (consume n s).params = s.params := rfl
@[simp] theorem consume_agenda (n : Nat) (s : State) : (consume n s).agenda = s.agenda := rfl

/-! ## loading words into the stream -/

@[simp] theorem loadWords_pma (ws : List CmdWord) (s : State) : (loadWords ws s).pma = s.pma := rfl
@[simp] theorem loadWords_drawEpoch (ws : List CmdWord) (s : State) : (loadWords ws s).drawEpoch = s.drawEpoch := rfl
@[simp] theorem loadWords_epr (ws : List CmdWord) (s : State) : (loadWords ws s).epr = s.epr := rfl
@[simp] theorem loadWords_istr (ws : List CmdWord) (s : State) : (loadWords ws s).istr = s.istr := rfl
@[simp] theorem loadWords_daddr (ws : List CmdWord) (s : State) : (loadWords ws s).daddr = s.daddr := rfl
@[simp] theorem loadWords_resp (ws : List CmdWord) (s : State) : (loadWords ws s).resp = s.resp := rfl
@[simp] theorem loadWords_fsm (ws : List CmdWord) (s : State) : (loadWords ws s).fsm = s.fsm := rfl
@[simp] theorem loadWords_snapv (ws : List CmdWord) (s : State) : (loadWords ws s).snapv = s.snapv := rfl
@[simp] theorem loadWords_clr (ws : List CmdWord) (s : State) : (loadWords ws s).clr = s.clr := rfl
@[simp] theorem loadWords_ctxl (ws : List CmdWord) (s : State) : (loadWords ws s).ctxl = s.ctxl := rfl
@[simp] theorem loadWords_faultCause (ws : List CmdWord) (s : State) :
    (loadWords ws s).faultCause = s.faultCause := rfl
@[simp] theorem loadWords_faultInfo (ws : List CmdWord) (s : State) : (loadWords ws s).faultInfo = s.faultInfo := rfl
@[simp] theorem loadWords_events (ws : List CmdWord) (s : State) : (loadWords ws s).events = s.events := rfl
@[simp] theorem loadWords_stream (ws : List CmdWord) (s : State) :
    (loadWords ws s).stream = s.stream.take s.pos ++ List.replicate (s.pos - s.stream.length) 0 ++ ws := rfl
@[simp] theorem loadWords_pos (ws : List CmdWord) (s : State) : (loadWords ws s).pos = s.pos := rfl
@[simp] theorem loadWords_params (ws : List CmdWord) (s : State) : (loadWords ws s).params = s.params := rfl
@[simp] theorem loadWords_agenda (ws : List CmdWord) (s : State) : (loadWords ws s).agenda = s.agenda := rfl

/-! ## fault entry (R203) -/

@[simp] theorem raiseFault_pma (c : FaultCode) (info : Halfword) (s : State) :
    (raiseFault c info s).pma = s.pma := rfl
@[simp] theorem raiseFault_drawEpoch (c : FaultCode) (info : Halfword) (s : State) :
    (raiseFault c info s).drawEpoch = s.drawEpoch := rfl
@[simp] theorem raiseFault_epr (c : FaultCode) (info : Halfword) (s : State) :
    (raiseFault c info s).epr = s.epr := rfl
@[simp] theorem raiseFault_istr (c : FaultCode) (info : Halfword) (s : State) :
    (raiseFault c info s).istr = s.istr := rfl
@[simp] theorem raiseFault_daddr (c : FaultCode) (info : Halfword) (s : State) :
    (raiseFault c info s).daddr = s.daddr := rfl
@[simp] theorem raiseFault_resp (c : FaultCode) (info : Halfword) (s : State) :
    (raiseFault c info s).resp = s.resp := rfl
@[simp] theorem raiseFault_fsm (c : FaultCode) (info : Halfword) (s : State) :
    (raiseFault c info s).fsm = .fault := rfl
@[simp] theorem raiseFault_snapv (c : FaultCode) (info : Halfword) (s : State) :
    (raiseFault c info s).snapv = s.snapv := rfl
@[simp] theorem raiseFault_clr (c : FaultCode) (info : Halfword) (s : State) :
    (raiseFault c info s).clr = s.clr := rfl
@[simp] theorem raiseFault_ctxl (c : FaultCode) (info : Halfword) (s : State) :
    (raiseFault c info s).ctxl = s.ctxl := rfl
@[simp] theorem raiseFault_faultCause (c : FaultCode) (info : Halfword) (s : State) :
    (raiseFault c info s).faultCause = faultByte c := rfl
@[simp] theorem raiseFault_faultInfo (c : FaultCode) (info : Halfword) (s : State) :
    (raiseFault c info s).faultInfo = info := rfl
@[simp] theorem raiseFault_events (c : FaultCode) (info : Halfword) (s : State) :
    (raiseFault c info s).events = s.events ++ [.fault c info] := rfl
@[simp] theorem raiseFault_stream (c : FaultCode) (info : Halfword) (s : State) :
    (raiseFault c info s).stream = s.stream := rfl
@[simp] theorem raiseFault_pos (c : FaultCode) (info : Halfword) (s : State) :
    (raiseFault c info s).pos = s.pos := rfl
@[simp] theorem raiseFault_params (c : FaultCode) (info : Halfword) (s : State) :
    (raiseFault c info s).params = s.params := rfl
@[simp] theorem raiseFault_agenda (c : FaultCode) (info : Halfword) (s : State) :
    (raiseFault c info s).agenda = s.agenda := rfl

/-! ## the power-on reset (R231) -/

@[simp] theorem powerOn_pma (s : State) : (powerOn s).pma = [] := rfl
@[simp] theorem powerOn_drawEpoch (s : State) : (powerOn s).drawEpoch = s.drawEpoch + 1 := rfl
@[simp] theorem powerOn_epr (s : State) : (powerOn s).epr = Vector.replicate 8 Config.epPowerOn := rfl
@[simp] theorem powerOn_istr (s : State) : (powerOn s).istr = 0 := rfl
@[simp] theorem powerOn_daddr (s : State) : (powerOn s).daddr = 0 := rfl
@[simp] theorem powerOn_resp (s : State) : (powerOn s).resp = 0 := rfl
@[simp] theorem powerOn_fsm (s : State) : (powerOn s).fsm = .idle := rfl
@[simp] theorem powerOn_snapv (s : State) : (powerOn s).snapv = 0 := rfl
@[simp] theorem powerOn_clr (s : State) : (powerOn s).clr = 0 := rfl
@[simp] theorem powerOn_ctxl (s : State) : (powerOn s).ctxl = none := rfl
@[simp] theorem powerOn_faultCause (s : State) : (powerOn s).faultCause = 0 := rfl
@[simp] theorem powerOn_faultInfo (s : State) : (powerOn s).faultInfo = 0 := rfl
@[simp] theorem powerOn_events (s : State) : (powerOn s).events = [] := rfl
@[simp] theorem powerOn_stream (s : State) : (powerOn s).stream = s.stream := rfl
@[simp] theorem powerOn_pos (s : State) : (powerOn s).pos = 0 := rfl
@[simp] theorem powerOn_params (s : State) : (powerOn s).params = s.params := rfl
@[simp] theorem powerOn_agenda (s : State) : (powerOn s).agenda = s.agenda := rfl

/-! ## `ResetAll` (R146) -/

@[simp] theorem resetAll_pma (s : State) : (resetAll s).pma = addressCells.foldl (fun m k => Memory.write m k 0) [] := rfl
@[simp] theorem resetAll_drawEpoch (s : State) : (resetAll s).drawEpoch = s.drawEpoch + 1 := rfl
@[simp] theorem resetAll_epr (s : State) : (resetAll s).epr = Vector.replicate 8 Config.epPowerOn := rfl
@[simp] theorem resetAll_istr (s : State) : (resetAll s).istr = s.istr := rfl
@[simp] theorem resetAll_daddr (s : State) : (resetAll s).daddr = s.daddr := rfl
@[simp] theorem resetAll_resp (s : State) : (resetAll s).resp = s.resp := rfl
@[simp] theorem resetAll_fsm (s : State) : (resetAll s).fsm = s.fsm := rfl
@[simp] theorem resetAll_snapv (s : State) : (resetAll s).snapv = s.snapv := rfl
@[simp] theorem resetAll_clr (s : State) : (resetAll s).clr = s.clr := rfl
@[simp] theorem resetAll_ctxl (s : State) : (resetAll s).ctxl = s.ctxl := rfl
@[simp] theorem resetAll_faultCause (s : State) : (resetAll s).faultCause = s.faultCause := rfl
@[simp] theorem resetAll_faultInfo (s : State) : (resetAll s).faultInfo = s.faultInfo := rfl
@[simp] theorem resetAll_events (s : State) : (resetAll s).events = s.events := rfl
@[simp] theorem resetAll_stream (s : State) : (resetAll s).stream = s.stream := rfl
@[simp] theorem resetAll_pos (s : State) : (resetAll s).pos = s.pos := rfl
@[simp] theorem resetAll_params (s : State) : (resetAll s).params = s.params := rfl
@[simp] theorem resetAll_agenda (s : State) : (resetAll s).agenda = s.agenda := rfl

/-! ## going on to CLEAR (R160) -/

@[simp] theorem toClear_pma (b : BitVec 4) (s : State) : (toClear b s).pma = s.pma := rfl
@[simp] theorem toClear_drawEpoch (b : BitVec 4) (s : State) : (toClear b s).drawEpoch = s.drawEpoch := rfl
@[simp] theorem toClear_epr (b : BitVec 4) (s : State) : (toClear b s).epr = s.epr := rfl
@[simp] theorem toClear_istr (b : BitVec 4) (s : State) : (toClear b s).istr = s.istr := rfl
@[simp] theorem toClear_daddr (b : BitVec 4) (s : State) : (toClear b s).daddr = s.daddr := rfl
@[simp] theorem toClear_resp (b : BitVec 4) (s : State) : (toClear b s).resp = s.resp := rfl
@[simp] theorem toClear_fsm (b : BitVec 4) (s : State) : (toClear b s).fsm = .clear := rfl
@[simp] theorem toClear_snapv (b : BitVec 4) (s : State) : (toClear b s).snapv = s.snapv := rfl
@[simp] theorem toClear_clr (b : BitVec 4) (s : State) : (toClear b s).clr = b := rfl
@[simp] theorem toClear_ctxl (b : BitVec 4) (s : State) : (toClear b s).ctxl = s.ctxl := rfl
@[simp] theorem toClear_faultCause (b : BitVec 4) (s : State) : (toClear b s).faultCause = s.faultCause := rfl
@[simp] theorem toClear_faultInfo (b : BitVec 4) (s : State) : (toClear b s).faultInfo = s.faultInfo := rfl
@[simp] theorem toClear_events (b : BitVec 4) (s : State) : (toClear b s).events = s.events := rfl
@[simp] theorem toClear_stream (b : BitVec 4) (s : State) : (toClear b s).stream = s.stream := rfl
@[simp] theorem toClear_pos (b : BitVec 4) (s : State) : (toClear b s).pos = s.pos := rfl
@[simp] theorem toClear_params (b : BitVec 4) (s : State) : (toClear b s).params = s.params := rfl
@[simp] theorem toClear_agenda (b : BitVec 4) (s : State) : (toClear b s).agenda = s.agenda := rfl

/-! ## the latches of an activation (R162) -/

@[simp] theorem latch_pma (ctx : Ctx) (f : Fsm) (s : State) : (latch ctx f s).pma = s.pma := rfl
@[simp] theorem latch_drawEpoch (ctx : Ctx) (f : Fsm) (s : State) : (latch ctx f s).drawEpoch = s.drawEpoch := rfl
@[simp] theorem latch_epr (ctx : Ctx) (f : Fsm) (s : State) : (latch ctx f s).epr = s.epr := rfl
@[simp] theorem latch_istr (ctx : Ctx) (f : Fsm) (s : State) : (latch ctx f s).istr = s.istr := rfl
@[simp] theorem latch_daddr (ctx : Ctx) (f : Fsm) (s : State) : (latch ctx f s).daddr = s.daddr := rfl
@[simp] theorem latch_resp (ctx : Ctx) (f : Fsm) (s : State) : (latch ctx f s).resp = s.resp := rfl
@[simp] theorem latch_fsm (ctx : Ctx) (f : Fsm) (s : State) : (latch ctx f s).fsm = f := rfl
@[simp] theorem latch_snapv (ctx : Ctx) (f : Fsm) (s : State) : (latch ctx f s).snapv = s.istr := rfl
@[simp] theorem latch_clr (ctx : Ctx) (f : Fsm) (s : State) : (latch ctx f s).clr = s.clr := rfl
@[simp] theorem latch_ctxl (ctx : Ctx) (f : Fsm) (s : State) : (latch ctx f s).ctxl = some ctx := rfl
@[simp] theorem latch_faultCause (ctx : Ctx) (f : Fsm) (s : State) : (latch ctx f s).faultCause = s.faultCause := rfl
@[simp] theorem latch_faultInfo (ctx : Ctx) (f : Fsm) (s : State) : (latch ctx f s).faultInfo = s.faultInfo := rfl
@[simp] theorem latch_events (ctx : Ctx) (f : Fsm) (s : State) : (latch ctx f s).events = s.events := rfl
@[simp] theorem latch_stream (ctx : Ctx) (f : Fsm) (s : State) : (latch ctx f s).stream = s.stream := rfl
@[simp] theorem latch_pos (ctx : Ctx) (f : Fsm) (s : State) : (latch ctx f s).pos = s.pos := rfl
@[simp] theorem latch_params (ctx : Ctx) (f : Fsm) (s : State) : (latch ctx f s).params = s.params := rfl
@[simp] theorem latch_agenda (ctx : Ctx) (f : Fsm) (s : State) : (latch ctx f s).agenda = s.agenda := rfl

end Sys2Proof.Machine
end

