-- ==== Sys2Proof/Laws/Memory.lean ====
section
/-! SUPPORT. The laws of the packet memory: a read after a write, every other cell left alone, and the canonical form
kept by every operation. -/

namespace Sys2Proof.Machine

namespace Memory

theorem lookup_insert (m : Memory) (k a : Nat) (v : Halfword) :
    (m.insert k v).lookup a = if a = k then some v else m.lookup a := by
  induction m with
  | nil => simp [insert, lookup]
  | cons e rest ih =>
    obtain ⟨k', v'⟩ := e
    simp only [insert]
    split
    · simp [lookup]
    · split
      · rename_i _ h; subst h; simp only [lookup]; split <;> rfl
      · rename_i _ h
        simp only [lookup, ih]
        split
        · rename_i h'; subst h'; simp [Ne.symm h]
        · rfl

theorem mem_insert {m : Memory} {k : Nat} {v : Halfword} {e : Nat × Halfword} (h : e ∈ m.insert k v) :
    e = (k, v) ∨ e ∈ m := by
  induction m with
  | nil => simpa [insert] using h
  | cons e' rest ih =>
    obtain ⟨k', v'⟩ := e'
    simp only [insert] at h
    split at h
    · simpa using h
    · split at h
      · rcases List.mem_cons.mp h with h | h
        · exact .inl h
        · exact .inr (List.mem_cons_of_mem _ h)
      · rcases List.mem_cons.mp h with h | h
        · exact .inr (by simp [h])
        · exact (ih h).imp id (List.mem_cons_of_mem _)

theorem pairwise_insert {m : Memory} (k : Nat) (v : Halfword) (h : m.Pairwise (fun x y => x.1 < y.1)) :
    (m.insert k v).Pairwise (fun x y => x.1 < y.1) := by
  induction m with
  | nil => simp [insert]
  | cons e rest ih =>
    obtain ⟨k', v'⟩ := e
    have hr := List.pairwise_cons.mp h
    simp only [insert]
    split
    · rename_i hk
      refine List.pairwise_cons.mpr ⟨fun x hx => ?_, h⟩
      rcases List.mem_cons.mp hx with hx | hx
      · simpa [hx] using hk
      · exact Nat.lt_trans hk (hr.1 x hx)
    · split
      · rename_i _ hk
        subst hk
        exact List.pairwise_cons.mpr ⟨hr.1, hr.2⟩
      · refine List.pairwise_cons.mpr ⟨fun x hx => ?_, ih hr.2⟩
        rcases mem_insert hx with hx | hx
        · subst hx; simp only; omega
        · exact hr.1 x hx

/-- Every write keeps the canonical form. -/
theorem wf_write {m : Memory} (k : Nat) (v : Halfword) (h : m.wf) : (m.write k v).wf := by
  unfold write
  split
  · rename_i hk
    refine ⟨pairwise_insert k v h.1, fun e he => ?_⟩
    rcases mem_insert he with he | he
    · simpa [he] using hk
    · exact h.2 e he
  · exact h

/-- Every sequence of writes keeps the canonical form. -/
theorem wf_writeList (d : List Halfword) : ∀ {m : Memory} (k : Nat), m.wf → (m.writeList k d).wf := by
  induction d with
  | nil => intro m k h; exact h
  | cons x xs ih => intro m k h; exact ih (k + 1) (wf_write k x h)

/-- The memory right after a draw of every cell is canonical. -/
theorem wf_nil : Memory.wf [] := ⟨List.Pairwise.nil, by simp⟩

theorem lookup_write {m : Memory} {k : Nat} (hk : k < 512) (a : Nat) (v : Halfword) :
    (m.write k v).lookup a = if a = k then some v else m.lookup a := by
  simp [write, hk, lookup_insert]

/-- Zeroing the cells of a list keeps the canonical form. -/
theorem wf_zeroCells (ks : List Nat) : ∀ {m : Memory}, m.wf → (ks.foldl (fun m k => m.write k 0) m).wf := by
  induction ks with
  | nil => intro m h; exact h
  | cons k ks ih => intro m h; exact ih (wf_write k 0 h)

theorem lookup_zeroCells (ks : List Nat) (a : Nat) : ∀ (m : Memory), (∀ k ∈ ks, k < 512) →
    (ks.foldl (fun m k => m.write k 0) m).lookup a = if a ∈ ks then some 0 else m.lookup a := by
  induction ks with
  | nil => intro m _; simp
  | cons k ks ih =>
    intro m h
    rw [List.foldl_cons, ih _ fun x hx => h x (List.mem_cons_of_mem _ hx),
      lookup_write (h k (List.mem_cons_self ..))]
    by_cases ha : a ∈ ks <;> by_cases hk : a = k <;> simp [ha, hk]

end Memory

/-- A read after a write: the written cell holds the value, every other cell what it held. -/
theorem readCell_writeCell {k : Nat} (hk : k < 512) (v : Halfword) (s : State) (a : Nat) :
    readCell (writeCell k v s) a = if a = k then v else readCell s a := by
  simp only [readCell, writeCell_pma, writeCell_drawEpoch, Memory.lookup_write hk]
  by_cases h : a = k <;> simp [h]

/-- `writeCells` is the cell writes of R102 in order. -/
theorem writeCells_cons (b : Nat) (x : Halfword) (xs : List Halfword) (s : State) :
    writeCells b (x :: xs) s = writeCells (b + 1) xs (writeCell b x s) := rfl

/-- A read after a sequence of writes. -/
theorem readCell_writeCells (d : List Halfword) : ∀ (b : Nat) (s : State) (a : Nat), b + d.length ≤ 512 →
    readCell (writeCells b d s) a = if h : b ≤ a ∧ a < b + d.length then d[a - b] else readCell s a := by
  induction d with
  | nil => intro b s a _; simp [writeCells, Memory.writeList]
  | cons x xs ih =>
    intro b s a h
    simp only [List.length_cons] at h ⊢
    rw [writeCells_cons, ih (b + 1) _ a (by omega)]
    by_cases h1 : a = b
    · subst h1
      simp [readCell_writeCell (show a < 512 by omega)]
    · by_cases h2 : b + 1 ≤ a ∧ a < b + 1 + xs.length
      · rw [dif_pos h2, dif_pos (by omega)]
        have : a - b = (a - (b + 1)) + 1 := by omega
        simp [this]
      · rw [dif_neg h2, dif_neg (by omega), readCell_writeCell (by omega), if_neg h1]

theorem addressCells_lt : ∀ k ∈ addressCells, k < 64 := by decide

/-- What `ResetAll` leaves in a cell: 0 in the 16 address fields, the new draw in every other cell (R146). -/
theorem readCell_resetAll (s : State) (a : Nat) :
    readCell (resetAll s) a = if a ∈ addressCells then 0 else Config.drawCell (s.drawEpoch + 1) a := by
  have h := Memory.lookup_zeroCells addressCells a [] fun k hk => Nat.lt_trans (addressCells_lt k hk) (by omega)
  simp only [readCell, resetAll_pma, resetAll_drawEpoch, h]
  by_cases ha : a ∈ addressCells <;> simp [ha, Memory.lookup]

/-- A read depends on the packet memory and the draw counter alone. -/
theorem readCell_congr {s t : State} (hp : t.pma = s.pma) (hd : t.drawEpoch = s.drawEpoch) (a : Nat) :
    readCell t a = readCell s a := by simp [readCell, hp, hd]

end Sys2Proof.Machine
end

