-- ==== Sys2Proof/Laws/Ops.lean ====
section
/-! SUPPORT. One lemma per shared operation, saying everything it can do, and the small facts about operands and
flags. -/

namespace Sys2Proof.Machine

/-! ## Operands -/

theorem endpointIndex_eq_some {n : Nat} {i : Fin 8} : endpointIndex n = some i ↔ n = i.val := by
  unfold endpointIndex
  split
  · simp [Fin.ext_iff]
  · constructor
    · simp
    · intro h; omega

theorem endpointIndex_eq_none {n : Nat} : endpointIndex n = none ↔ 8 ≤ n := by
  unfold endpointIndex
  split <;> simp <;> omega

@[simp] theorem endpointIndex_val (i : Fin 8) : endpointIndex i.val = some i := endpointIndex_eq_some.mpr rfl

/-- Every BDT field lies in the table (R110). -/
theorem bdtCell_lt (ep : Fin 8) (f : BdtField) : bdtCell ep f < 64 := by
  cases f <;> simp [bdtCell, fieldOffset] <;> omega

theorem bdtCell_inj {e e' : Fin 8} {f f' : BdtField} : bdtCell e f = bdtCell e' f' ↔ e = e' ∧ f = f' := by
  revert e e'; cases f <;> cases f' <;> decide

theorem mem_addressCells {k : Nat} :
    k ∈ addressCells ↔ ∃ ep : Fin 8, k = bdtCell ep .txAddr ∨ k = bdtCell ep .rxAddr := by
  simp [addressCells]

/-! ## Registers -/

theorem readEpr_setEpr (s : State) (i j : Fin 8) (v : Halfword) :
    readEpr (setEpr i v s) j = if j = i then v else readEpr s j := by
  simp only [readEpr, setEpr, Fin.getElem_fin, Vector.getElem_set, Fin.ext_iff]
  by_cases h : i.val = j.val
  · simp [h]
  · simp [h, Ne.symm h]

theorem readEpr_resetAll (s : State) (i : Fin 8) : readEpr (resetAll s) i = 0 := by
  simp [readEpr]

theorem readEpr_powerOn (s : State) (i : Fin 8) : readEpr (powerOn s) i = 0 := by
  simp [readEpr]

/-! ## The stream -/

theorem pending_loadWords (ws : List CmdWord) (s : State) : pending (loadWords ws s) = ws := by
  have h : (s.stream.take s.pos ++ List.replicate (s.pos - s.stream.length) (0 : CmdWord)).length = s.pos := by
    simp only [List.length_append, List.length_take, List.length_replicate]; omega
  simp only [pending, loadWords_stream, loadWords_pos]
  exact List.drop_left' h

theorem pending_readyToRun (ws : List CmdWord) (s : State) : pending (readyToRun ws s) = ws :=
  pending_loadWords ws s

/-! ## The guards -/

/-- What a command guarded by the endpoint check does. -/
theorem withEndpoint_cases (ep : Byte) (body : Fin 8 → State → State) (s : State) :
    (∃ i : Fin 8, ep.toNat = i.val ∧ withEndpoint ep body s = body i s) ∨
      (8 ≤ ep.toNat ∧ withEndpoint ep body s = raiseFault .epRange (ep.setWidth 16) s) := by
  unfold withEndpoint
  cases h : endpointIndex ep.toNat with
  | some i => exact .inl ⟨i, endpointIndex_eq_some.mp h, rfl⟩
  | none => exact .inr ⟨endpointIndex_eq_none.mp h, rfl⟩

theorem withEndpoint_of_eq {ep : Byte} {i : Fin 8} (h : ep.toNat = i.val) (body : Fin 8 → State → State)
    (s : State) : withEndpoint ep body s = body i s := by
  simp [withEndpoint, h]

theorem withEndpoint_of_ge {ep : Byte} (h : 8 ≤ ep.toNat) (body : Fin 8 → State → State) (s : State) :
    withEndpoint ep body s = raiseFault .epRange (ep.setWidth 16) s := by
  simp [withEndpoint, endpointIndex_eq_none.mpr h]

/-- What a command guarded by the RX size check does. -/
theorem withRxSize_cases (size : Halfword) (body : State → State) (s : State) :
    (rxSizeCheck size = none ∧ withRxSize size body s = body s) ∨
      (∃ c, rxSizeCheck size = some c ∧ withRxSize size body s = raiseFault c size s) := by
  unfold withRxSize
  cases h : rxSizeCheck size with
  | none => exact .inl ⟨rfl, rfl⟩
  | some c => exact .inr ⟨c, rfl, rfl⟩

/-- What a command guarded by a range check does. -/
theorem withRange_cases (ok : Bool) (info : Halfword) (body : State → State) (s : State) :
    (ok = true ∧ withRange ok info body s = body s) ∨
      (ok = false ∧ withRange ok info body s = raiseFault .pmaRange info s) := by
  cases ok <;> simp [withRange]

/-! ## The flags -/

@[simp] theorem flagOfBit_flagBit (f : IstrFlag) : flagOfBit (flagBit f) = some f := by cases f <;> rfl

theorem flagOfBit_eq_some {b : BitVec 4} {f : IstrFlag} : flagOfBit b = some f ↔ b = flagBit f := by
  cases f <;> revert b <;> decide

theorem faultByte_ne_zero (c : FaultCode) : faultByte c ≠ 0 := by cases c <;> decide

/-- A selected flag is a recognised one that is set, and not RESET or CTR unless it is that flag. -/
theorem select_eq_some {v : Halfword} {f : IstrFlag} (h : select v = some f) :
    recognised f = true ∧ flagSet v f = true := by
  unfold select at h
  repeat' split at h
  all_goals first
    | (cases h; exact ⟨rfl, by assumption⟩)
    | cases h

/-! ## Bit by bit -/

theorem bitMask_getLsbD : ∀ b j : Fin 16, (bitMask b.val).getLsbD j.val = decide (j.val = b.val) := by decide

/-- The mask of the byte count is bits 9:0 (R24). -/
theorem countMask_getLsbD :
    ∀ j : Fin 16, (fieldMask 0 Config.countWidth).getLsbD j.val = decide (j.val < 10) := by decide

/-- The masks computed from the field positions are the numbers of R143. -/
theorem masks_eq :
    rcMask = 0x8080 ∧ toggleMask = 0x7070 ∧ plainMask = 0x070F ∧ readOnlyMask = 0x0800 := by decide

/-- The four masks are disjoint and cover all 16 bits (R143). -/
theorem masks_partition :
    [rcMask, toggleMask, plainMask, readOnlyMask].Pairwise (fun a b => a &&& b = 0) ∧
      rcMask ||| toggleMask ||| plainMask ||| readOnlyMask = 0xFFFF := by decide

/-- FLAGS is bits 15:8 (R31). -/
theorem flagsMask_getLsbD : ∀ j : Fin 16, flagsMask.getLsbD j.val = decide (8 ≤ j.val) := by decide

theorem rcMask_getLsbD : ∀ j : Fin 16, rcMask.getLsbD j.val = decide (j.val = 15 ∨ j.val = 7) := by decide

theorem toggleMask_getLsbD : ∀ j : Fin 16, toggleMask.getLsbD j.val =
    decide (j.val = 14 ∨ j.val = 13 ∨ j.val = 12 ∨ j.val = 6 ∨ j.val = 5 ∨ j.val = 4) := by decide

theorem plainMask_getLsbD : ∀ j : Fin 16, plainMask.getLsbD j.val =
    decide (j.val = 10 ∨ j.val = 9 ∨ j.val = 8 ∨ j.val < 4) := by decide

theorem readOnlyMask_getLsbD : ∀ j : Fin 16, readOnlyMask.getLsbD j.val = decide (j.val = 11) := by decide

/-- What a host write makes of each bit of an endpoint register (R28, R143). -/
theorem epWriteValue_getLsbD (o w : Halfword) (j : Fin 16) : (epWriteValue o w).getLsbD j.val =
    if j.val = 15 ∨ j.val = 7 then o.getLsbD j.val && w.getLsbD j.val
    else if j.val = 14 ∨ j.val = 13 ∨ j.val = 12 ∨ j.val = 6 ∨ j.val = 5 ∨ j.val = 4 then
      xor (o.getLsbD j.val) (w.getLsbD j.val)
    else if j.val = 11 then o.getLsbD j.val
    else w.getLsbD j.val := by
  simp only [epWriteValue, BitVec.getLsbD_or, BitVec.getLsbD_and, BitVec.getLsbD_xor, rcMask_getLsbD,
    toggleMask_getLsbD, plainMask_getLsbD, readOnlyMask_getLsbD]
  fin_cases j <;> simp

/-- Each bit of the word of the read-modify-toggle discipline (R144). -/
theorem rmt_getLsbD (o t : Halfword) (j : Fin 16) : (rmt o t).getLsbD j.val =
    if j.val = 14 ∨ j.val = 13 ∨ j.val = 12 ∨ j.val = 6 ∨ j.val = 5 ∨ j.val = 4 then
      xor (o.getLsbD j.val) (t.getLsbD j.val)
    else if j.val = 11 then false
    else t.getLsbD j.val := by
  simp only [rmt, BitVec.getLsbD_or, BitVec.getLsbD_and, BitVec.getLsbD_xor, rcMask_getLsbD, toggleMask_getLsbD,
    plainMask_getLsbD]
  fin_cases j <;> simp

theorem clearWord_getLsbD (f : IstrFlag) :
    ∀ j : Fin 16, (clearWord (flagBit f)).getLsbD j.val = decide (j.val ≠ (flagBit f).toNat) := by
  cases f <;> decide

/-- The clear step's write makes one flag 0 and leaves every other bit (R32). -/
theorem istrClear_getLsbD (v : Halfword) (f : IstrFlag) (j : Fin 16) :
    (istrClear v (flagBit f)).getLsbD j.val = if j.val = (flagBit f).toNat then false else v.getLsbD j.val := by
  simp only [istrClear, BitVec.getLsbD_or, BitVec.getLsbD_and, BitVec.getLsbD_not, clearWord_getLsbD,
    flagsMask_getLsbD]
  cases f <;> fin_cases j <;> simp [flagBit]

theorem flagSet_istrClear_self (v : Halfword) (f : IstrFlag) : flagSet (istrClear v (flagBit f)) f = false := by
  have h := istrClear_getLsbD v f ⟨(flagBit f).toNat, by omega⟩
  simpa [flagSet] using h

theorem flagSet_istrClear_other (v : Halfword) {f g : IstrFlag} (h : g ≠ f) :
    flagSet (istrClear v (flagBit f)) g = flagSet v g := by
  have e := istrClear_getLsbD v f ⟨(flagBit g).toNat, by omega⟩
  rw [if_neg (by revert h; cases f <;> cases g <;> decide)] at e
  exact e

/-! ## The canonical form, over states -/

theorem resetAll_wf (s : State) : (resetAll s).pma.wf := by
  rw [resetAll_pma]
  exact Memory.wf_zeroCells addressCells Memory.wf_nil

theorem powerOn_wf (s : State) : (powerOn s).pma.wf := Memory.wf_nil

theorem reset_wf : State.reset.pma.wf := Memory.wf_nil

end Sys2Proof.Machine
end

