-- ==== Sys2Proof/Laws/Step.lean ====
section
/-! SUPPORT. Inversion: what a command, each dispatcher step and one step of the machine can do, said once. Later
proofs cite these and unfold nothing. -/

namespace Sys2Proof.Machine

/-- Every command has a next state: a fault of the block is one (R203). -/
theorem exec_answers_next (i : Instr) (s : State) : ∃ t, exec i s = .next t := by
  cases i <;> exact ⟨_, rfl⟩

/-- What the guarded body of an endpoint command can leave. -/
theorem withEndpoint_inv {ep : Byte} {body : Fin 8 → State → State} {s t : State}
    (h : withEndpoint ep body s = t) :
    (∃ i, t = body i s) ∨ ∃ c info, t = raiseFault c info s := by
  rcases withEndpoint_cases ep body s with ⟨i, _, e⟩ | ⟨_, e⟩
  · exact .inl ⟨i, by rw [← h, e]⟩
  · exact .inr ⟨_, _, by rw [← h, e]⟩

/-- What a command can leave: a fault, a response, new cells of the packet memory, one endpoint register, everything
reset, or a dispatch activated. -/
theorem exec_cases {i : Instr} {s t : State} (h : exec i s = .next t) :
    (∃ c info, t = raiseFault c info s) ∨ (∃ v, t = respond v s) ∨ (∃ k v, t = writeCell k v s) ∨
      (∃ b d, t = writeCells b d s) ∨ (∃ e v, t = setEpr e v s) ∨ t = resetAll s ∨
      (i = .irqDispatch ∧ t = activate s.params.ctx s) := by
  cases i with
  | pmaGet offset =>
    injection h with h
    rcases withRange_cases (cellInRange offset) offset (fun t => respond (readCell t offset.toNat) t) s with
      ⟨_, e⟩ | ⟨_, e⟩
    · exact .inr (.inl ⟨_, by rw [← h, e]⟩)
    · exact .inl ⟨_, _, by rw [← h, e]⟩
  | pmaSet offset value =>
    injection h with h
    rcases withRange_cases (cellInRange offset) offset (writeCell offset.toNat value) s with ⟨_, e⟩ | ⟨_, e⟩
    · exact .inr (.inr (.inl ⟨_, _, by rw [← h, e]⟩))
    · exact .inl ⟨_, _, by rw [← h, e]⟩
  | pmaWriteBuf base data =>
    injection h with h
    rcases withRange_cases (rangeInPma base data.length) base (writeCells base.toNat data) s with ⟨_, e⟩ | ⟨_, e⟩
    · exact .inr (.inr (.inr (.inl ⟨_, _, by rw [← h, e]⟩)))
    · exact .inl ⟨_, _, by rw [← h, e]⟩
  | bdtTxAddr ep | bdtTxCount ep | bdtRxAddr ep | bdtRxCount ep | epRead ep =>
    injection h with h
    rcases withEndpoint_inv h with ⟨_, e⟩ | e
    · exact .inr (.inl ⟨_, e⟩)
    · exact .inl e
  | bdtSetTxAddr ep addr | bdtSetRxAddr ep addr =>
    injection h with h
    rcases withEndpoint_inv h with ⟨_, e⟩ | e
    · exact .inr (.inr (.inl ⟨_, _, e⟩))
    · exact .inl e
  | encodeRxSize size =>
    injection h with h
    rcases withRxSize_cases size (respond (encodeSize size)) s with ⟨_, e⟩ | ⟨_, _, e⟩
    · exact .inr (.inl ⟨_, by rw [← h, e]⟩)
    · exact .inl ⟨_, _, by rw [← h, e]⟩
  | bdtSetRxSize ep size =>
    injection h with h
    rcases withEndpoint_inv h with ⟨i, e⟩ | e
    · rcases withRxSize_cases size (writeCell (bdtCell i .rxCount) (encodeSize size)) s with ⟨_, e'⟩ | ⟨_, _, e'⟩
      · exact .inr (.inr (.inl ⟨_, _, by rw [e, e']⟩))
      · exact .inl ⟨_, _, by rw [e, e']⟩
    · exact .inl e
  | pmaAlloc size =>
    injection h with h
    split at h
    · exact .inl ⟨_, _, h.symm⟩
    · exact .inr (.inl ⟨_, h.symm⟩)
  | epWrite ep value =>
    injection h with h
    rcases withEndpoint_inv h with ⟨_, e⟩ | e
    · exact .inr (.inr (.inr (.inr (.inl ⟨_, _, e⟩))))
    · exact .inl e
  | epResetAll =>
    injection h with h
    exact .inr (.inr (.inr (.inr (.inr (.inl h.symm)))))
  | irqDispatch =>
    injection h with h
    exact .inr (.inr (.inr (.inr (.inr (.inr ⟨rfl, h.symm⟩)))))

/-- What an activation does (R162). -/
theorem activate_cases (ctx : Ctx) (s : State) :
    (select s.istr = some .reset ∧ activate ctx s = latch ctx .resetAct s) ∨
      (select s.istr = some .ctr ∧ activate ctx s = latch ctx .ctrEval s) ∨
      (∃ f, select s.istr = some f ∧ f ≠ .reset ∧ f ≠ .ctr ∧
        activate ctx s = toClear (flagBit f) (latch ctx .clear s)) ∨
      (select s.istr = none ∧ activate ctx s = raiseFault .noRecognizedFlag s.istr s) := by
  unfold activate
  split
  · rename_i h; exact .inl ⟨h, rfl⟩
  · rename_i h; exact .inr (.inl ⟨h, rfl⟩)
  · rename_i f h1 h2 h; exact .inr (.inr (.inl ⟨f, h, h1, h2, rfl⟩))
  · rename_i h; exact .inr (.inr (.inr ⟨h, rfl⟩))

/-- What the evaluate step does (R165 to R167, R172). -/
theorem evalStep_cases (s : State) :
    evalStep s = callHandler s ∨ evalStep s = toClear (flagBit .ctr) s ∨
      (∃ c info, evalStep s = raiseFault c info s) := by
  unfold evalStep
  split
  · unfold decideCtr
    split
    · split
      · exact .inl rfl
      · exact .inr (.inl rfl)
    · split
      · exact .inr (.inl rfl)
      · exact .inr (.inr ⟨_, _, rfl⟩)
  · exact .inr (.inr ⟨_, _, rfl⟩)

/-- What the handler call does (R168). -/
theorem callHandler_cases (s : State) :
    (∃ ctx, s.ctxl = some ctx ∧
      callHandler s = { s with fsm := .callWait, events := s.events ++ [.handlerCall ctx] }) ∨
      (s.ctxl = none ∧ callHandler s = { s with fsm := .callWait }) := by
  unfold callHandler
  split
  · rename_i ctx h; exact .inl ⟨ctx, h, rfl⟩
  · rename_i h; exact .inr ⟨h, rfl⟩

/-- What the clear step does (R170). -/
theorem clearStep_cases (s : State) :
    (∃ f, flagOfBit s.clr = some f ∧
      clearStep s =
        { s with istr := istrClear s.istr s.clr, events := s.events ++ [.cleared f], fsm := .idle }) ∨
      (flagOfBit s.clr = none ∧ clearStep s = { s with fsm := .idle }) := by
  unfold clearStep
  split
  · rename_i f h; exact .inl ⟨f, h, rfl⟩
  · rename_i h; exact .inr ⟨h, rfl⟩

/-- The state a turn is taken in: the agenda without the turn, all else as it was. -/
def afterTurn (s : State) : State := { s with agenda := s.agenda.tail }

theorem afterTurn_nil {s : State} (h : s.agenda = []) : afterTurn s = s := by
  cases s; simp only at h; subst h; rfl

/-- The block's step, if it has one. -/
theorem blockStep_cases {s : State} {o : Host.Outcome State Fault Refusal} (h : blockStep s = some o) :
    (s.fsm = .resetAct ∧ o = .next (resetStep s)) ∨ (s.fsm = .ctrEval ∧ o = .next (evalStep s)) ∨
      (s.fsm = .clear ∧ o = .next (clearStep s)) ∨
      (s.fsm = .idle ∧ ∃ i n, fetch s = .instr i n ∧ o = exec i (consume n s)) ∨
      (s.fsm = .idle ∧ ∃ op, fetch s = .reject (.illegalCommand op) ∧
        o = .next (raiseFault .illegalCommand (op.setWidth 16) (consume 1 s))) ∨
      (s.fsm = .idle ∧ ∃ op n, fetch s = .reject (.reservedNonzero op n) ∧
        o = .next (raiseFault .reservedNonzero (op.setWidth 16) (consume n s))) := by
  unfold blockStep at h
  split at h
  · rename_i hf
    unfold commandStep at h
    split at h
    · rename_i i n hd; cases h; exact .inr (.inr (.inr (.inl ⟨hf, i, n, hd, rfl⟩)))
    · rename_i op hd; cases h; exact .inr (.inr (.inr (.inr (.inl ⟨hf, op, hd, rfl⟩))))
    · rename_i op n hd; cases h; exact .inr (.inr (.inr (.inr (.inr ⟨hf, op, n, hd, rfl⟩))))
    · cases h
    · cases h
  · rename_i hf; cases h; exact .inl ⟨hf, rfl⟩
  · rename_i hf; cases h; exact .inr (.inl ⟨hf, rfl⟩)
  · cases h
  · rename_i hf; cases h; exact .inr (.inr (.inl ⟨hf, rfl⟩))
  · cases h

/-- One step, said once: the turn passed, or one agent moved. The state it moved from is `afterTurn s`. -/
theorem step_cases {s t : State} (h : step s = .next t) :
    t = afterTurn s ∨ (s.agenda.head? = some .powerOn ∧ t = powerOn (afterTurn s)) ∨
      (∃ m, s.agenda.head? = some (.peripheral m) ∧ t = periphMove m (afterTurn s)) ∨
      (s.fsm = .callWait ∧ t = handlerAnswer (afterTurn s)) ∨
      (autoEnabled s = true ∧ t = activate s.params.ctx (afterTurn s)) ∨
      (s.fsm = .resetAct ∧ t = resetStep (afterTurn s)) ∨ (s.fsm = .ctrEval ∧ t = evalStep (afterTurn s)) ∨
      (s.fsm = .clear ∧ t = clearStep (afterTurn s)) ∨
      (s.fsm = .idle ∧ ∃ i n, fetch s = .instr i n ∧ exec i (consume n (afterTurn s)) = .next t) ∨
      (s.fsm = .idle ∧ ∃ op, fetch s = .reject (.illegalCommand op) ∧
        t = raiseFault .illegalCommand (op.setWidth 16) (consume 1 (afterTurn s))) ∨
      (s.fsm = .idle ∧ ∃ op n, fetch s = .reject (.reservedNonzero op n) ∧
        t = raiseFault .reservedNonzero (op.setWidth 16) (consume n (afterTurn s))) := by
  have fromBlock : ∀ {o}, blockStep (afterTurn s) = some o → o = .next t →
      (s.fsm = .resetAct ∧ t = resetStep (afterTurn s)) ∨ (s.fsm = .ctrEval ∧ t = evalStep (afterTurn s)) ∨
      (s.fsm = .clear ∧ t = clearStep (afterTurn s)) ∨
      (s.fsm = .idle ∧ ∃ i n, fetch s = .instr i n ∧ exec i (consume n (afterTurn s)) = .next t) ∨
      (s.fsm = .idle ∧ ∃ op, fetch s = .reject (.illegalCommand op) ∧
        t = raiseFault .illegalCommand (op.setWidth 16) (consume 1 (afterTurn s))) ∨
      (s.fsm = .idle ∧ ∃ op n, fetch s = .reject (.reservedNonzero op n) ∧
        t = raiseFault .reservedNonzero (op.setWidth 16) (consume n (afterTurn s))) := by
    intro o hb ho
    rcases blockStep_cases hb with ⟨hf, e⟩ | ⟨hf, e⟩ | ⟨hf, e⟩ | ⟨hf, i, n, hd, e⟩ | ⟨hf, op, hd, e⟩ |
      ⟨hf, op, n, hd, e⟩
    · rw [e] at ho; injection ho with ho; exact .inl ⟨hf, ho.symm⟩
    · rw [e] at ho; injection ho with ho; exact .inr (.inl ⟨hf, ho.symm⟩)
    · rw [e] at ho; injection ho with ho; exact .inr (.inr (.inl ⟨hf, ho.symm⟩))
    · exact .inr (.inr (.inr (.inl ⟨hf, i, n, hd, by rw [← e, ho]⟩)))
    · rw [e] at ho; injection ho with ho; exact .inr (.inr (.inr (.inr (.inl ⟨hf, op, hd, ho.symm⟩))))
    · rw [e] at ho; injection ho with ho; exact .inr (.inr (.inr (.inr (.inr ⟨hf, op, n, hd, ho.symm⟩))))
  unfold step agentStep at h
  split at h
  · rename_i ha
    rw [afterTurn_nil ha] at fromBlock ⊢
    unfold defaultStep at h
    split at h
    · rename_i o hb
      exact .inr (.inr (.inr (.inr (.inr (fromBlock hb h)))))
    · have quiet : quietStep s = .next t → autoEnabled s = true ∧ t = activate s.params.ctx s := by
        intro hq
        unfold quietStep at hq
        split at hq
        · rename_i hau; injection hq with hq; exact ⟨hau, hq.symm⟩
        · split at hq <;> cases hq
      unfold otherStep at h
      split at h
      · rename_i hf; injection h with h; exact .inr (.inr (.inr (.inl ⟨hf, h.symm⟩)))
      · cases h
      all_goals exact .inr (.inr (.inr (.inr (.inl (quiet h)))))
  · rename_i tn rest ha
    have e : ({ s with agenda := rest } : State) = afterTurn s := by simp [afterTurn, ha]
    rw [e] at h
    unfold takeTurn at h
    split at h
    · split at h
      · rename_i o hb
        exact .inr (.inr (.inr (.inr (.inr (fromBlock hb h)))))
      · injection h with h; exact .inl h.symm
    · injection h with h
      split at h
      · rename_i hau; exact .inr (.inr (.inr (.inr (.inl ⟨hau, h.symm⟩))))
      · exact .inl h.symm
    · injection h with h
      split at h
      · rename_i hf; exact .inr (.inr (.inr (.inl ⟨hf, h.symm⟩)))
      · exact .inl h.symm
    · rename_i m
      injection h with h
      exact .inr (.inr (.inl ⟨m, by simp [ha], h.symm⟩))
    · injection h with h
      exact .inr (.inl ⟨by simp [ha], h.symm⟩)

/-! ## What the pieces of a step leave alone -/

theorem afterTurn_eq_of_cons {s : State} {t : Turn} {rest : List Turn} (h : s.agenda = t :: rest) :
    ({ s with agenda := rest } : State) = afterTurn s := by simp [afterTurn, h]

/-- Where the block has a step and its turn has come, that is the machine's step. -/
theorem step_of_blockStep {s : State} {o : Host.Outcome State Fault Refusal}
    (hb : s.agenda = [] ∨ s.agenda.head? = some .block) (h : blockStep (afterTurn s) = some o) : step s = o := by
  unfold step agentStep
  rcases hb with hb | hb
  · rw [afterTurn_nil hb] at h
    simp [hb, defaultStep, h]
  · cases ha : s.agenda with
    | nil => simp [ha] at hb
    | cons t rest =>
      simp only [ha, List.head?_cons, Option.some.injEq] at hb
      subst hb
      simp only [takeTurn, afterTurn_eq_of_cons ha, h]

/-- The peripheral's turn. -/
theorem step_of_peripheral {s : State} {m : PeriphMove} (h : s.agenda.head? = some (.peripheral m)) :
    step s = .next (periphMove m (afterTurn s)) := by
  unfold step agentStep
  cases ha : s.agenda with
  | nil => simp [ha] at h
  | cons t rest =>
    simp only [ha, List.head?_cons, Option.some.injEq] at h
    subst h
    simp only [takeTurn, afterTurn_eq_of_cons ha]

/-- What a command never writes (R32, R34, R38). -/
theorem exec_frame {i : Instr} {s t : State} (h : exec i s = .next t) :
    t.istr = s.istr ∧ t.daddr = s.daddr ∧ t.stream = s.stream ∧ t.pos = s.pos ∧ t.params = s.params := by
  rcases exec_cases h with ⟨_, _, e⟩ | ⟨_, e⟩ | ⟨_, _, e⟩ | ⟨_, _, e⟩ | ⟨_, _, e⟩ | e | ⟨_, e⟩ <;> rw [e]
  case inr.inr.inr.inr.inr.inr =>
    rcases activate_cases s.params.ctx s with ⟨_, e'⟩ | ⟨_, e'⟩ | ⟨_, _, _, _, e'⟩ | ⟨_, e'⟩ <;> rw [e'] <;>
      exact ⟨rfl, rfl, rfl, rfl, rfl⟩
  all_goals exact ⟨rfl, rfl, rfl, rfl, rfl⟩

/-- What an activation never writes. -/
theorem activate_frame (ctx : Ctx) (s : State) :
    (activate ctx s).pma = s.pma ∧ (activate ctx s).drawEpoch = s.drawEpoch ∧ (activate ctx s).epr = s.epr ∧
      (activate ctx s).istr = s.istr ∧ (activate ctx s).daddr = s.daddr ∧ (activate ctx s).resp = s.resp ∧
      (activate ctx s).stream = s.stream ∧ (activate ctx s).pos = s.pos ∧
      (activate ctx s).params = s.params ∧ (activate ctx s).agenda = s.agenda := by
  rcases activate_cases ctx s with ⟨_, e⟩ | ⟨_, e⟩ | ⟨_, _, _, _, e⟩ | ⟨_, e⟩ <;> rw [e] <;>
    exact ⟨rfl, rfl, rfl, rfl, rfl, rfl, rfl, rfl, rfl, rfl⟩

/-- What the evaluate step never writes. -/
theorem evalStep_frame (s : State) :
    (evalStep s).pma = s.pma ∧ (evalStep s).drawEpoch = s.drawEpoch ∧ (evalStep s).epr = s.epr ∧
      (evalStep s).istr = s.istr ∧ (evalStep s).daddr = s.daddr ∧ (evalStep s).resp = s.resp ∧
      (evalStep s).stream = s.stream ∧ (evalStep s).pos = s.pos ∧ (evalStep s).params = s.params ∧
      (evalStep s).agenda = s.agenda := by
  rcases evalStep_cases s with e | e | ⟨_, _, e⟩ <;> rw [e]
  · rcases callHandler_cases s with ⟨_, _, e⟩ | ⟨_, e⟩ <;> rw [e] <;>
      exact ⟨rfl, rfl, rfl, rfl, rfl, rfl, rfl, rfl, rfl, rfl⟩
  all_goals exact ⟨rfl, rfl, rfl, rfl, rfl, rfl, rfl, rfl, rfl, rfl⟩

/-- What the clear step never writes. -/
theorem clearStep_frame (s : State) :
    (clearStep s).pma = s.pma ∧ (clearStep s).drawEpoch = s.drawEpoch ∧ (clearStep s).epr = s.epr ∧
      (clearStep s).daddr = s.daddr ∧ (clearStep s).resp = s.resp ∧ (clearStep s).stream = s.stream ∧
      (clearStep s).pos = s.pos ∧ (clearStep s).params = s.params ∧ (clearStep s).agenda = s.agenda := by
  rcases clearStep_cases s with ⟨_, _, e⟩ | ⟨_, e⟩ <;> rw [e] <;>
    exact ⟨rfl, rfl, rfl, rfl, rfl, rfl, rfl, rfl, rfl⟩

/-- What the peripheral never writes (P5 of R212). -/
theorem periphMove_frame (m : PeriphMove) (s : State) :
    (periphMove m s).drawEpoch = s.drawEpoch ∧ (periphMove m s).daddr = s.daddr ∧
      (periphMove m s).resp = s.resp ∧ (periphMove m s).fsm = s.fsm ∧ (periphMove m s).snapv = s.snapv ∧
      (periphMove m s).clr = s.clr ∧ (periphMove m s).ctxl = s.ctxl ∧
      (periphMove m s).faultCause = s.faultCause ∧ (periphMove m s).faultInfo = s.faultInfo ∧
      (periphMove m s).events = s.events ∧ (periphMove m s).stream = s.stream ∧
      (periphMove m s).pos = s.pos ∧ (periphMove m s).params = s.params ∧
      (periphMove m s).agenda = s.agenda := by
  unfold periphMove
  cases m with
  | writeCell k v =>
    dsimp only
    split <;> exact ⟨rfl, rfl, rfl, rfl, rfl, rfl, rfl, rfl, rfl, rfl, rfl, rfl, rfl, rfl⟩
  | setFlag | setIdDir | rxDone | txDone | setState | writeRxCount =>
    exact ⟨rfl, rfl, rfl, rfl, rfl, rfl, rfl, rfl, rfl, rfl, rfl, rfl, rfl, rfl⟩

/-- P2 writes no flag (R212). -/
theorem flagSet_setIdDir (b : Byte) (v : Halfword) (f : IstrFlag) : flagSet (setIdDir b v) f = flagSet v f := by
  have m := flagsMask_getLsbD ⟨(flagBit f).toNat, by omega⟩
  simp only [flagSet, setIdDir, BitVec.getLsbD_or, BitVec.getLsbD_and, BitVec.getLsbD_setWidth, m]
  cases f <;> simp [flagBit]

/-- The peripheral keeps the canonical form. -/
theorem periphMove_wf (m : PeriphMove) {s : State} (h : s.pma.wf) : (periphMove m s).pma.wf := by
  unfold periphMove
  cases m with
  | writeCell k v =>
    dsimp only
    split
    · exact Memory.wf_write _ _ h
    · exact h
  | writeRxCount e c => exact Memory.wf_write _ _ h
  | setFlag | setIdDir | rxDone | txDone | setState => exact h

/-- Every command keeps the canonical form. -/
theorem exec_wf {i : Instr} {s t : State} (h : exec i s = .next t) (hw : s.pma.wf) : t.pma.wf := by
  rcases exec_cases h with ⟨_, _, e⟩ | ⟨_, e⟩ | ⟨_, _, e⟩ | ⟨_, _, e⟩ | ⟨_, _, e⟩ | e | ⟨_, e⟩ <;> rw [e]
  · exact hw
  · exact hw
  · exact Memory.wf_write _ _ hw
  · exact Memory.wf_writeList _ _ hw
  · exact hw
  · exact resetAll_wf s
  · rw [(activate_frame _ s).1]; exact hw

end Sys2Proof.Machine
end

