-- ==== Sys2Proof/Laws/HostSoftware.lean ====
section
/-! SUPPORT. What the host software of R80 does: it writes the stream and nothing else of the machine, and it places
nothing while the block is busy or has faulted. -/

namespace Sys2Proof.Machine

/-- The host waits, or it places the words of one command at the end of the stream (R80, R215). -/
theorem placeNext_cases (h : HostRun) :
    placeNext h = h ∨
      (hostReady h.machine = true ∧ ∃ i, nextCommand h.pseudo h.placed h.machine = some i ∧
        placeNext h = { h with
          placed := h.placed + 1, machine := { h.machine with stream := h.machine.stream ++ encode i } }) := by
  unfold placeNext
  split
  · rename_i hr
    split
    · rename_i i hi; exact .inr ⟨hr, i, hi, rfl⟩
    · exact .inl rfl
  · exact .inl rfl

theorem placeNext_of_busy {h : HostRun} (hb : h.machine.fsm ≠ .idle) : placeNext h = h := by
  rcases placeNext_cases h with e | ⟨hr, _⟩
  · exact e
  · exact absurd (of_decide_eq_true hr).2 hb

theorem placeNext_of_pending {h : HostRun} (hp : pending h.machine ≠ []) : placeNext h = h := by
  rcases placeNext_cases h with e | ⟨hr, _⟩
  · exact e
  · exact absurd (of_decide_eq_true hr).1 hp

/-- Placing a command leaves all of the machine but the stream. -/
theorem placeNext_frame (h : HostRun) :
    { (placeNext h).machine with stream := h.machine.stream } = h.machine ∧ (placeNext h).pseudo = h.pseudo := by
  rcases placeNext_cases h with e | ⟨_, _, _, e⟩ <;> rw [e] <;> exact ⟨rfl, rfl⟩

/-- A command that follows a fault is never issued and none runs: with no turn chosen the run ends as halted (R10,
R205). -/
theorem hostStep_of_fault {h : HostRun} (hf : h.machine.fsm = .fault) (ha : h.machine.agenda = []) :
    hostStep .host h = .next h ∧ hostStep .machine h = .fault .halted := by
  constructor
  · simp [hostStep, placeNext_of_busy, hf]
  · simp [hostStep, step, agentStep, ha, defaultStep, blockStep, otherStep, hf]

end Sys2Proof.Machine
end

