-- ==== Sys2Proof/Laws/PerInstr.lean ====
section
/-! SUPPORT. Statements about every command as syntax, one lemma per constructor. -/

namespace Sys2Proof.Laws

/-- The row of the opcode map a command belongs to (R73). -/
def EncodedOpcode.rowOf : Instr → Opcode
  | .pmaGet _ => .pmaGet
  | .pmaSet _ _ => .pmaSet
  | .pmaWriteBuf _ _ => .pmaWriteBuf
  | .bdtTxAddr _ => .bdtTxAddr
  | .bdtSetTxAddr _ _ => .bdtSetTxAddr
  | .bdtTxCount _ => .bdtTxCount
  | .bdtRxAddr _ => .bdtRxAddr
  | .bdtSetRxAddr _ _ => .bdtSetRxAddr
  | .bdtRxCount _ => .bdtRxCount
  | .encodeRxSize _ => .encodeRxSize
  | .bdtSetRxSize _ _ => .bdtSetRxSize
  | .pmaAlloc _ => .pmaAlloc
  | .epRead _ => .epRead
  | .epWrite _ _ => .epWrite
  | .epResetAll => .epResetAll
  | .irqDispatch => .irqDispatch

/-- The first word of a command carries its row's opcode and zero in every reserved field (R73, R74). -/
def EncodedOpcode.Statement (i : Instr) : Prop :=
  ∃ w ws, encode i = w :: ws ∧ opcodeOfByte (fieldOp w) = some (EncodedOpcode.rowOf i) ∧
    reservedZero (opcodeUses (EncodedOpcode.rowOf i)) w = true

namespace EncodedOpcode

theorem pmaGet (offset : Halfword) : Statement (.pmaGet offset) :=
  ⟨_, _, rfl, by simp [rowOf], by simp [rowOf, reservedZero, opcodeUses]⟩

theorem pmaSet (offset value : Halfword) : Statement (.pmaSet offset value) :=
  ⟨_, _, rfl, by simp [rowOf], by simp [rowOf, reservedZero, opcodeUses]⟩

theorem pmaWriteBuf (base : Halfword) (data : List Halfword) : Statement (.pmaWriteBuf base data) :=
  ⟨_, _, rfl, by simp [rowOf], by simp [rowOf, reservedZero, opcodeUses]⟩

theorem bdtTxAddr (ep : Byte) : Statement (.bdtTxAddr ep) :=
  ⟨_, _, rfl, by simp [rowOf], by simp [rowOf, reservedZero, opcodeUses]⟩

theorem bdtSetTxAddr (ep : Byte) (addr : Halfword) : Statement (.bdtSetTxAddr ep addr) :=
  ⟨_, _, rfl, by simp [rowOf], by simp [rowOf, reservedZero, opcodeUses]⟩

theorem bdtTxCount (ep : Byte) : Statement (.bdtTxCount ep) :=
  ⟨_, _, rfl, by simp [rowOf], by simp [rowOf, reservedZero, opcodeUses]⟩

theorem bdtRxAddr (ep : Byte) : Statement (.bdtRxAddr ep) :=
  ⟨_, _, rfl, by simp [rowOf], by simp [rowOf, reservedZero, opcodeUses]⟩

theorem bdtSetRxAddr (ep : Byte) (addr : Halfword) : Statement (.bdtSetRxAddr ep addr) :=
  ⟨_, _, rfl, by simp [rowOf], by simp [rowOf, reservedZero, opcodeUses]⟩

theorem bdtRxCount (ep : Byte) : Statement (.bdtRxCount ep) :=
  ⟨_, _, rfl, by simp [rowOf], by simp [rowOf, reservedZero, opcodeUses]⟩

theorem encodeRxSize (size : Halfword) : Statement (.encodeRxSize size) :=
  ⟨_, _, rfl, by simp [rowOf], by simp [rowOf, reservedZero, opcodeUses]⟩

theorem bdtSetRxSize (ep : Byte) (size : Halfword) : Statement (.bdtSetRxSize ep size) :=
  ⟨_, _, rfl, by simp [rowOf], by simp [rowOf, reservedZero, opcodeUses]⟩

theorem pmaAlloc (size : Halfword) : Statement (.pmaAlloc size) :=
  ⟨_, _, rfl, by simp [rowOf], by simp [rowOf, reservedZero, opcodeUses]⟩

theorem epRead (ep : Byte) : Statement (.epRead ep) :=
  ⟨_, _, rfl, by simp [rowOf], by simp [rowOf, reservedZero, opcodeUses]⟩

theorem epWrite (ep : Byte) (value : Halfword) : Statement (.epWrite ep value) :=
  ⟨_, _, rfl, by simp [rowOf], by simp [rowOf, reservedZero, opcodeUses]⟩

theorem epResetAll : Statement .epResetAll :=
  ⟨_, _, rfl, by simp [rowOf], by simp [rowOf, reservedZero, opcodeUses]⟩

theorem irqDispatch : Statement .irqDispatch :=
  ⟨_, _, rfl, by simp [rowOf], by simp [rowOf, reservedZero, opcodeUses]⟩

end EncodedOpcode

end Sys2Proof.Laws
end

