-- ==== Sys2Proof/Tests/Slice0.lean ====
section
/-! SUPPORT. Tests of the model, each a named theorem on fixed values taken from the spec (30_encoding.md R81 and
95_test_vectors.md), and one witness per obligation that has hypotheses. -/

namespace Sys2Proof.Tests

open Sys2Proof Sys2Proof.Machine

/-! ## Well-formedness: the one check, and the operand checks of the assembler (R79) -/

theorem test_wellFormed_payload_too_long (base : Halfword) :
    (Instr.pmaWriteBuf base (List.replicate 65536 0)).wellFormed = false := by
  simp only [Instr.wellFormed, payloadFits, List.length_replicate]
  decide

theorem test_wellFormed_longest_payload (base : Halfword) :
    (Instr.pmaWriteBuf base (List.replicate 65535 0)).wellFormed = true := by
  simp only [Instr.wellFormed, payloadFits, List.length_replicate]
  decide

-- R79: an operand that does not fit its field is an assembly error; EP_READ 9 and PMA_GET 600 assemble.
theorem test_assemble_operand_too_wide : assemble "EP_READ" [256] = none ∧ assemble "PMA_GET" [65536] = none := by
  decide

theorem test_assemble_out_of_range_is_a_run_time_matter :
    assemble "EP_READ" [9] = some (.epRead 9) ∧ assemble "PMA_GET" [600] = some (.pmaGet 600) := by decide

/-! ## Decoding: the words of R81 -/

theorem test_decode_pmaGet : decode [0x010001C000000000#64] = .instr (.pmaGet 0x1C0) 1 := by decide

theorem test_decode_pmaSet : decode [0x020001C00000BEEF#64] = .instr (.pmaSet 0x1C0 0xBEEF) 1 := by decide

theorem test_decode_pmaWriteBuf :
    decode [0x030001C000020000#64, 0x0000000002001201#64] = .instr (.pmaWriteBuf 0x1C0 [0x1201, 0x0200]) 2 := by
  decide

theorem test_decode_pmaWriteBuf_two_payload_words :
    decode [0x0300010000050000#64, 0x0004000300020001#64, 0x0000000000000005#64] =
      .instr (.pmaWriteBuf 0x100 [1, 2, 3, 4, 5]) 3 := by decide

theorem test_decode_bdtTxAddr : decode [0x0403000000000000#64] = .instr (.bdtTxAddr 3) 1 := by decide

theorem test_decode_bdtSetTxAddr : decode [0x05000000000001C0#64] = .instr (.bdtSetTxAddr 0 0x1C0) 1 := by decide

theorem test_decode_bdtTxCount : decode [0x0601000000000000#64] = .instr (.bdtTxCount 1) 1 := by decide

theorem test_decode_bdtRxAddr : decode [0x0700000000000000#64] = .instr (.bdtRxAddr 0) 1 := by decide

theorem test_decode_bdtSetRxAddr : decode [0x0800000000000180#64] = .instr (.bdtSetRxAddr 0 0x180) 1 := by decide

theorem test_decode_bdtRxCount : decode [0x0900000000000000#64] = .instr (.bdtRxCount 0) 1 := by decide

theorem test_decode_encodeRxSize : decode [0x0A00004000000000#64] = .instr (.encodeRxSize 64) 1 := by decide

theorem test_decode_bdtSetRxSize : decode [0x0B00004000000000#64] = .instr (.bdtSetRxSize 0 64) 1 := by decide

theorem test_decode_pmaAlloc : decode [0x0C00004000000000#64] = .instr (.pmaAlloc 64) 1 := by decide

theorem test_decode_epRead : decode [0x1009000000000000#64] = .instr (.epRead 9) 1 := by decide

theorem test_decode_epWrite : decode [0x1100000000000280#64] = .instr (.epWrite 0 0x0280) 1 := by decide

theorem test_decode_epResetAll : decode [0x1200000000000000#64] = .instr .epResetAll 1 := by decide

theorem test_decode_irqDispatch : decode [0x2000000000000000#64] = .instr .irqDispatch 1 := by decide

-- V1: illegal before reserved, and the two rejections of R81.
theorem test_decode_rejections :
    decode [0x0000000000000000#64] = .reject (.illegalCommand 0) ∧
      decode [0xFF09000000000000#64] = .reject (.illegalCommand 0xFF) ∧
      decode [0x1200000000000001#64] = .reject (.reservedNonzero 0x12 1) ∧
      decode [0x1009000000000001#64] = .reject (.reservedNonzero 0x10 1) := by decide

-- V2: three halfwords and no payload word left in the stream.
theorem test_decode_missing_payload : decode [0x0300010000030000#64] = .reject .payloadMissing := by decide

-- R81, read the other way.
theorem test_encode_words :
    encode (.pmaWriteBuf 0x100 [1, 2, 3, 4, 5]) =
        [0x0300010000050000#64, 0x0004000300020001#64, 0x0000000000000005#64] ∧
      encode (.bdtSetRxSize 3 8) = [0x0B03000800000000#64] ∧ encode (.epWrite 7 0) = [0x1107000000000000#64] := by
  decide

theorem test_decodeTableWord :
    decodeTableWord 64 0x0507000000000100 = some (.bdtSetTxAddr 7 0x100) ∧
      decodeTableWord 64 0x0300010000050000 = some (.pmaWriteBuf 0x100 [0, 0, 0, 0, 0]) ∧
      decodeTableWord 64 0x0D00000000000000 = none := by decide

/-! ## One command, one step -/

/-- A state whose 16 address fields are 0, with other cells as given, that runs the words `ws` next. -/
def machine (ws : List CmdWord) : State :=
  { State.reset with pma := addressCells.map fun k => (k, (0 : Halfword)), stream := ws }

/-- What a field holds after a step that goes on. -/
def after {α : Type} (o : Host.Outcome State Fault Refusal) (f : State → α) : Option α :=
  match o with
  | .next s => some (f s)
  | .fault _ => none
  | .refused _ => none

/-- The fault registers, FSM and the position after a step. -/
def faultView (s : State) : Fsm × Byte × Halfword × Nat := (s.fsm, s.faultCause, s.faultInfo, s.pos)

theorem test_machine_is_canonical : (machine []).pma.wf := by decide

-- V2.
theorem test_step_pmaGet :
    after (step (writeCell 511 0x1234 (machine [0x010001FF00000000#64]))) (fun s => (s.resp, s.events)) =
      some (0x1234, [.resp 0x1234]) := by decide

theorem test_step_pmaGet_out_of_range :
    after (step (machine [0x0100020000000000#64])) faultView = some (.fault, 0x32, 512, 1) := by decide

theorem test_step_pmaSet :
    after (step (machine [0x020001C00000BEEF#64])) (fun s => (readCell s 0x1C0, s.resp, s.events)) =
      some (0xBEEF, 0, []) := by decide

theorem test_step_pmaSet_out_of_range :
    after (step (machine [0x0200FFFF00000001#64])) faultView = some (.fault, 0x32, 0xFFFF, 1) := by decide

theorem test_step_pmaWriteBuf :
    after (step (machine [0x030001FE00020000#64, 0x00000000BBBBAAAA#64]))
      (fun s => (readCell s 510, readCell s 511, s.pos)) = some (0xAAAA, 0xBBBB, 2) := by decide

theorem test_step_pmaWriteBuf_out_of_range :
    after (step (machine [0x030001FE00030000#64, 0x0000CCCCBBBBAAAA#64]))
      (fun s => (faultView s, s.pma.lookup 510)) = some ((.fault, 0x32, 510, 2), none) := by decide

-- V3.
theorem test_step_bdtTxAddr :
    after (step (writeCell 56 0x1C0 (machine [0x0407000000000000#64]))) (·.resp) = some 0x1C0 := by decide

theorem test_step_bdtSetTxAddr :
    after (step (machine [0x05000000000001C0#64])) (fun s => (readCell s 0, readCell s 4)) = some (0x1C0, 0) := by
  decide

theorem test_step_bdtSetTxAddr_no_endpoint :
    after (step (machine [0x0508000000000100#64])) faultView = some (.fault, 0x31, 8, 1) := by decide

theorem test_step_bdtTxCount :
    after (step (writeCell 10 0xFFFF (machine [0x0601000000000000#64]))) (·.resp) = some 0xFFFF := by decide

theorem test_step_bdtRxAddr :
    after (step (writeCell 12 0x180 (machine [0x0701000000000000#64]))) (·.resp) = some 0x180 := by decide

theorem test_step_bdtSetRxAddr :
    after (step (machine [0x0807000000000030#64])) (fun s => (readCell s 60, readCell s 56)) = some (0x30, 0) := by
  decide

theorem test_step_bdtRxCount :
    after (step (writeCell 6 0x8412 (machine [0x0900000000000000#64]))) (·.resp) = some 0x8412 := by decide

-- V4.
theorem test_step_encodeRxSize :
    after (step (machine [0x0A00020000000000#64])) (·.resp) = some 0xBC00 ∧
      after (step (machine [0x0A00002000000000#64])) (·.resp) = some 0x4000 := by decide

theorem test_step_encodeRxSize_faults :
    after (step (machine [0x0A00003F00000000#64])) faultView = some (.fault, 0x13, 63, 1) ∧
      after (step (machine [0x0A00020100000000#64])) faultView = some (.fault, 0x12, 513, 1) := by decide

theorem test_step_bdtSetRxSize :
    after (step (writeCell 6 0x8412 (machine [0x0B00004000000000#64]))) (fun s => (readCell s 6, s.resp)) =
      some (0x8400, 0) := by decide

theorem test_step_bdtSetRxSize_endpoint_first :
    after (step (machine [0x0B09003F00000000#64])) faultView = some (.fault, 0x31, 9, 1) := by decide

-- V5.
theorem test_step_pmaAlloc :
    after (step (writeCell 4 0x180 (writeCell 0 0x1C0 (machine [0x0C00004000000000#64])))) (·.resp) =
      some 0x0140 := by decide

theorem test_step_pmaAlloc_exhausted :
    after (step (machine [0x0C0001C100000000#64])) faultView = some (.fault, 0x14, 449, 1) := by decide

/-- `machine` with one endpoint register given. -/
def withEpr (i : Fin 8) (v : Halfword) (s : State) : State := setEpr i v s

-- V6.
theorem test_step_epRead :
    after (step (withEpr 0 0x8A00 (machine [0x1000000000000000#64]))) (fun s => (s.resp, readEpr s 0)) =
      some (0x8A00, 0x8A00) := by decide

theorem test_step_epRead_no_endpoint :
    after (step (machine [0x1009000000000000#64])) faultView = some (.fault, 0x31, 9, 1) := by decide

theorem test_step_epWrite :
    after (step (withEpr 0 0xAAA0 (machine [0x1100000000000280#64]))) (fun s => (readEpr s 0, s.resp)) =
      some (0x2AA0, 0) := by decide

theorem test_step_epWrite_toggles :
    after (step (withEpr 7 0x3220 (machine [0x1107000000000000#64]))) (fun s => readEpr s 7) = some 0x3020 := by
  decide

-- V6: the written value, field by field, and the read-modify-toggle word.
theorem test_epWriteValue :
    epWriteValue 0x0000 0xFFFF = 0x777F ∧ epWriteValue 0xBA20 0x0000 = 0x3820 ∧
      epWriteValue 0x3220 0x3220 = 0x0200 ∧ rmt 0x0220 0x0230 = 0x0210 := by decide

theorem test_step_epResetAll :
    after (step { withEpr 0 0x8A00 (writeCell 0 0x1C0 (machine [0x1200000000000000#64])) with istr := 0x8400 })
      (fun s => (readEpr s 0, readCell s 0, s.istr)) = some (0, 0, 0x8400) := by decide

/-- `machine` about to run IRQ_DISPATCH with the given ISTR. -/
def dispatching (istr : Halfword) : State := { machine [0x2000000000000000#64] with istr := istr }

-- V7 and S10.
theorem test_step_irqDispatch :
    after (step (dispatching 0xBA10)) (fun s => (s.fsm, s.snapv, s.ctxl)) = some (.ctrEval, 0xBA10, some ⟨0⟩) := by
  decide

theorem test_step_irqDispatch_no_flag :
    after (step (dispatching 0x4000)) (fun s => (faultView s, s.istr, s.snapv)) =
      some ((.fault, 0x22, 0x4000, 1), 0x4000, 0) := by decide

/-- A state in CTR_EVAL whose snapshot and live ISTR are `istr`. -/
def evaluating (istr : Halfword) : State :=
  { machine [] with istr := istr, snapv := istr, ctxl := some ⟨0⟩, fsm := .ctrEval }

-- V7: the rows for EPR[2] = 0x0080 and for EP_ID 9.
theorem test_evaluate_in_completion :
    after (step (withEpr 2 0x0080 (evaluating 0x8002))) faultView = some (.fault, 0x21, 2, 0) := by decide

theorem test_evaluate_endpoint_out_of_range :
    after (step (evaluating 0x8009)) faultView = some (.fault, 0x31, 9, 0) := by decide

/-- A state in CLEAR, about to clear bit `b`. -/
def clearing (b : BitVec 4) (istr : Halfword) : State :=
  { machine [] with istr := istr, clr := b, ctxl := some ⟨0⟩, fsm := .clear }

-- V7, 0xBA10: CTR is cleared and no other flag.
theorem test_clear :
    after (step (clearing 15 0xBA10)) (fun s => (s.istr, s.events, s.fsm)) =
      some (0x3A10, [.cleared .ctr], .idle) := by decide

-- V8.
theorem test_usbVersion :
    usbVersion 256 16 17 = 0x0001 ∧ versionMajor 0x021F = 2 ∧ versionMinor 0x021F = 1 ∧
      versionRevision 0x021F = 15 := by decide

theorem test_power : (powerStore 512, powerRead (powerStore 101), powerRead (powerStore 1000)) = (0, 100, 488) := by
  decide

-- The host's question: the table word is fetched and run as the first command after reset.
theorem test_withFetchWord :
    after (step (State.reset.withFetchWord 64 0x0A00004000000000)) (·.resp) = some 0x8400 := by decide

/-! ## Pseudo-instructions (R80) carried out by the host software -/

/-- What a schedule of the host and the machine leaves. -/
def afterPseudo {α : Type} (ts : List HostTurn) (p : Pseudo) (s : State) (f : HostRun → α) : Option α :=
  match runPseudo ts (startPseudo p s) with
  | .next h => some (f h)
  | .fault _ => none
  | .refused _ => none

-- From all fields 0, ALLOC_TX 3, 64 stores 448 in the TX address field of endpoint 3 (R134).
theorem test_allocTx :
    afterPseudo twoCommands (.allocTx 3 64) (machine []) (fun h => (pseudoDone h, readCell h.machine 24)) =
      some (true, 448) := by decide

-- R10, R205: after ALLOC_EXHAUSTED the store is neither issued nor run; the field keeps its value.
theorem test_allocTx_exhausted :
    afterPseudo [.host, .machine, .host, .host] (.allocTx 3 449) (machine [])
      (fun h => (h.machine.fsm, h.placed, h.machine.stream.length, readCell h.machine 24)) =
      some (.fault, 1, 1, 0) := by decide

-- R66, R237: the peripheral completes an IN transfer between the two commands; the target 0x82A0 keeps its CTR_TX.
theorem test_epSet_with_a_peripheral_move_between :
    afterPseudo [.host, .machine, .machine, .host, .machine] (.epSet 0 0x82A0)
      (withEpr 0 0x0230 { machine [] with agenda := [.block, .peripheral (.txDone 0), .block] })
      (fun h => (pseudoDone h, readEpr h.machine 0)) = some (true, 0x02A0) := by decide

-- R163, R210: SOF and SUSP are dispatched one after the other, each by its own IRQ_DISPATCH.
theorem test_dispatchAll :
    afterPseudo [.host, .machine, .machine, .host, .machine, .machine, .host] .dispatchAll
      { machine [] with istr := 0x0A00 } (fun h => (pseudoDone h, h.placed, h.machine.events)) =
      some (true, 2, [.cleared .sof, .cleared .susp]) := by decide

-- R79 for pseudo-instructions: an operand that does not fit its field is an assembly error.
theorem test_assemblePseudo :
    assemblePseudo "ALLOC_RX" [0, 64, 65536] = none ∧
      assemblePseudo "EP_SET" [1, 0x0230] = some (.epSet 1 0x0230) := by decide

/-! ## Witnesses: for every obligation with hypotheses, values that meet them -/

theorem witness_PmaGetReturnsTheCell : (511#16).toNat < 512 ∧ 512 ≤ (512#16).toNat := by decide

theorem witness_PmaSetStoresTheCell : (511#16).toNat < 512 ∧ 512 ≤ (512#16).toNat := by decide

theorem witness_PmaWriteBufStoresTheRange :
    ((510#16).toNat + [1#16, 2#16].length ≤ 512 ∧ (512#16).toNat + ([] : List Halfword).length ≤ 512) ∧
      512 < (510#16).toNat + [1#16, 2#16, 3#16].length := by decide

theorem witness_BdtAddressGettersReturnTheField : (7#8).toNat < 8 ∧ 8 ≤ (8#8).toNat := by decide

theorem witness_BdtCountGettersReturnTheWholeCell : (7#8).toNat < 8 ∧ 8 ≤ (8#8).toNat := by decide

theorem witness_BdtSettersStoreTheField : (7#8).toNat < 8 ∧ 8 ≤ (8#8).toNat := by decide

theorem witness_EncodeRxSizeReturnsTheEncoding :
    ((62#16).toNat ≤ 62 ∧ (62#16).toNat % 2 = 0) ∧
      (62 < (64#16).toNat ∧ (64#16).toNat ≤ 512 ∧ (64#16).toNat % 32 = 0) ∧
      (62 < (512#16).toNat ∧ (512#16).toNat ≤ 512 ∧ (512#16).toNat % 32 = 0) ∧
      512 < (513#16).toNat ∧ (62 < (63#16).toNat ∧ (63#16).toNat ≤ 512 ∧ (63#16).toNat % 32 ≠ 0) ∧
      ((61#16).toNat ≤ 62 ∧ (61#16).toNat % 2 ≠ 0) := by decide

theorem witness_BdtSetRxSizeStoresTheEncoding :
    ((7#8).toNat < 8 ∧ (62#16).toNat ≤ 62 ∧ (62#16).toNat % 2 = 0) ∧
      ((7#8).toNat < 8 ∧ 62 < (512#16).toNat ∧ (512#16).toNat ≤ 512 ∧ (512#16).toNat % 32 = 0) ∧
      8 ≤ (8#8).toNat ∧ ((7#8).toNat < 8 ∧ 512 < (513#16).toNat) ∧
      ((7#8).toNat < 8 ∧ 62 < (63#16).toNat ∧ (63#16).toNat ≤ 512 ∧ (63#16).toNat % 32 ≠ 0) ∧
      ((7#8).toNat < 8 ∧ (61#16).toNat ≤ 62 ∧ (61#16).toNat % 2 ≠ 0) := by decide

theorem witness_RxSizeCapacityInvertsTheEncoding : rxSizeCheck 62 = none ∧ rxSizeCheck 512 = none := by decide

theorem machine_fields_zero (e : Fin 8) :
    readCell (machine []) (8 * e.val) = 0 ∧ readCell (machine []) (8 * e.val + 4) = 0 := by
  revert e; decide

-- Every field 0: the lowest allocated address is 512, so 448 cells fit and 449 do not.
theorem witness_PmaAllocReturnsLowMinusSize :
    isLowestAllocated (machine []) 512 ∧ (448#16).toNat + 64 ≤ 512 ∧ 512 < (449#16).toNat + 64 := by
  refine ⟨.inl ⟨fun e rx => ?_, rfl⟩, by decide, by decide⟩
  revert e rx; decide

theorem witness_PmaAllocRecordsNothing :
    ∃ t, exec (.pmaAlloc 448) (machine []) = .next t ∧ t.fsm ≠ .fault := ⟨_, rfl, by decide⟩

/-- Two requests of R133, TX and RX of endpoint 0. -/
def requests : List AllocRequest := [⟨0, false, 64⟩, ⟨0, true, 384⟩]

-- R134: with every field 0 the first buffer is [448, 512), the second [64, 448).
theorem witness_StoredAllocationsAreDisjoint :
    (∀ e : Fin 8, readCell (machine []) (8 * e.val) = 0 ∧ readCell (machine []) (8 * e.val + 4) = 0) ∧
      (requests.map requestCell).Nodup ∧
      (allocSequence requests (machine [])).map Prod.fst = some [(448, 64), (64, 384)] :=
  ⟨machine_fields_zero, by decide, by decide⟩

theorem witness_FittingAllocationsSucceed :
    (machine []).fsm = .idle ∧
      (∀ e : Fin 8, readCell (machine []) (8 * e.val) = 0 ∧ readCell (machine []) (8 * e.val + 4) = 0) ∧
      (requests.map requestCell).Nodup ∧ (requests.map (fun r => r.size.toNat)).sum ≤ 448 :=
  ⟨rfl, machine_fields_zero, by decide, by decide⟩

theorem witness_EpReadReturnsTheRegister : (7#8).toNat < 8 ∧ 8 ≤ (8#8).toNat := by decide

theorem witness_EpWriteAppliesTheWriteKinds : (7#8).toNat < 8 ∧ 8 ≤ (8#8).toNat := by decide

theorem witness_ReadModifyToggleReachesTheTarget :
    (14 : Fin 16).val ≠ 15 ∧ (14 : Fin 16).val ≠ 7 ∧ (14 : Fin 16).val ≠ 11 := by decide

theorem witness_ClearCtrPseudosClearOneFlag :
    (7#8).toNat < 8 ∧ (machine []).fsm = .idle ∧ (machine []).agenda = [] ∧
      (machine []).pos = (machine []).stream.length := by decide

theorem witness_EndpointIndexIsChecked : endpointOperand (.bdtSetRxSize 8 63) = some 8 ∧ 8 ≤ (8#8).toNat := by decide

theorem witness_IrqDispatchActivates :
    (dispatching 0x3E00).istr.getLsbD 10 = true ∧
      ((dispatching 0xBA10).istr.getLsbD 10 = false ∧ (dispatching 0xBA10).istr.getLsbD 15 = true) ∧
      ((dispatching 0x4A00).istr.getLsbD 10 = false ∧ (dispatching 0x4A00).istr.getLsbD 15 = false ∧
        (dispatching 0x4A00).istr.getLsbD 9 = true) ∧
      ((dispatching 0x1800).istr.getLsbD 10 = false ∧ (dispatching 0x1800).istr.getLsbD 15 = false ∧
        (dispatching 0x1800).istr.getLsbD 9 = false ∧ (dispatching 0x1800).istr.getLsbD 12 = true) ∧
      ((dispatching 0x2800).istr.getLsbD 10 = false ∧ (dispatching 0x2800).istr.getLsbD 15 = false ∧
        (dispatching 0x2800).istr.getLsbD 9 = false ∧ (dispatching 0x2800).istr.getLsbD 12 = false ∧
        (dispatching 0x2800).istr.getLsbD 11 = true) ∧
      ((dispatching 0x2000).istr.getLsbD 10 = false ∧ (dispatching 0x2000).istr.getLsbD 15 = false ∧
        (dispatching 0x2000).istr.getLsbD 9 = false ∧ (dispatching 0x2000).istr.getLsbD 12 = false ∧
        (dispatching 0x2000).istr.getLsbD 11 = false ∧ (dispatching 0x2000).istr.getLsbD 13 = true) := by decide

theorem witness_NoRecognisedFlagTraps : ∀ f ∈ priorityOrder, flagSet (dispatching 0x41FF).istr f = false := by
  decide

-- One state for each clause; the last names endpoint 8, the first that does not exist.
theorem witness_EvaluateStepDecides :
    ((evaluating 0x8007).fsm = .ctrEval ∧ (evaluating 0x8007).agenda = [] ∧
        (epId (evaluating 0x8007).snapv).toNat < 8 ∧ (evaluating 0x8007).ctxl = some ⟨0⟩) ∧
      (ctrRx (readEpr (withEpr 7 0x8800 (evaluating 0x8007)) 7) = true ∧
        setupFlag (readEpr (withEpr 7 0x8800 (evaluating 0x8007)) 7) = true) ∧
      (ctrRx (readEpr (withEpr 7 0x8080 (evaluating 0x8007)) 7) = true ∧
        setupFlag (readEpr (withEpr 7 0x8080 (evaluating 0x8007)) 7) = false) ∧
      (ctrRx (readEpr (withEpr 7 0x0080 (evaluating 0x8007)) 7) = false ∧
        ctrTx (readEpr (withEpr 7 0x0080 (evaluating 0x8007)) 7) = true) ∧
      (ctrRx (readEpr (evaluating 0x8007) 7) = false ∧ ctrTx (readEpr (evaluating 0x8007) 7) = false) ∧
      8 ≤ (epId (evaluating 0x8008).snapv).toNat := by decide

/-- A state in CALL_WAIT. -/
def waiting : State := { evaluating 0x8001 with fsm := .callWait }

theorem witness_HandlerAnswers : waiting.fsm = .callWait ∧ handlersTurn waiting := ⟨rfl, .inl rfl⟩

theorem witness_ClearStepClearsOneFlag :
    (clearing 15 0xBA10).fsm = .clear ∧ (clearing 15 0xBA10).clr = flagBit .ctr ∧ blocksTurn (clearing 15 0xBA10) :=
  ⟨rfl, rfl, .inl rfl⟩

theorem witness_BusResetDispatch :
    (dispatching 0x8400).fsm = .idle ∧ (dispatching 0x8400).agenda = [] ∧
      fetch (dispatching 0x8400) = .instr .irqDispatch 1 ∧ flagSet (dispatching 0x8400).istr .reset = true := by
  decide

theorem witness_SetupDispatchCallsTheHandlerOnce :
    let s := withEpr 7 0x8A00 (dispatching 0xBA17)
    (epId s.istr).toNat < 8 ∧ s.fsm = .idle ∧ s.agenda = [] ∧ fetch s = .instr .irqDispatch 1 ∧
      flagSet s.istr .reset = false ∧ flagSet s.istr .ctr = true ∧ ctrRx s.epr[7] = true ∧
      setupFlag s.epr[7] = true := by decide

theorem witness_InCompletionTrapsUnlessFixed :
    let s := withEpr 2 0x0080 (dispatching 0x8002)
    (epId s.istr).toNat < 8 ∧ s.fsm = .idle ∧ s.agenda = [] ∧ fetch s = .instr .irqDispatch 1 ∧
      flagSet s.istr .reset = false ∧ flagSet s.istr .ctr = true ∧ ctrRx s.epr[2] = false ∧
      ctrTx s.epr[2] = true ∧ s.params.txCheckFixed = false ∧
      ({ s with params := { s.params with txCheckFixed := true } } : State).params.txCheckFixed = true := by decide

theorem witness_CtrPendingAcrossBusResetTraps :
    let s := { machine (encode .irqDispatch ++ encode .irqDispatch) with istr := 0x8407 }
    s.fsm = .idle ∧ s.agenda = [] ∧ pending s = encode .irqDispatch ++ encode .irqDispatch ∧
      flagSet s.istr .reset = true ∧ flagSet s.istr .ctr = true ∧ (epId s.istr).toNat < 8 := by decide

theorem witness_DispatchEndsWithinThreeSteps :
    (evaluating 0x8001).fsm ≠ .idle ∧ (evaluating 0x8001).fsm ≠ .fault ∧ (evaluating 0x8001).agenda = [] := by
  decide

theorem witness_DispatcherFollowsItsArrows :
    ∃ t, step (dispatching 0x8400) = .next t ∧ (dispatching 0x8400).agenda.head? ≠ some .powerOn ∧
      t.fsm ≠ (dispatching 0x8400).fsm := ⟨_, rfl, by decide, by decide⟩

/-- A state in CLEAR meets the invariant. -/
theorem clearing_inv : BlockInv (clearing 15 0xBA10) where
  memory := by decide
  position := by decide
  cause := by decide
  record := by intro h; cases h
  clearing := fun _ => ⟨.ctr, rfl, rfl⟩
  resetting := by intro h; cases h
  transfer := by rintro (h | h) <;> cases h
  context := by intro _ _; decide

theorem witness_OnlyTheClearStepEndsADispatch :
    BlockInv (clearing 15 0xBA10) ∧ ∃ t, step (clearing 15 0xBA10) = .next t ∧
      (clearing 15 0xBA10).agenda.head? ≠ some .powerOn ∧ (clearing 15 0xBA10).fsm ≠ .idle ∧ t.fsm = .idle ∧
      t.events = (clearing 15 0xBA10).events ++ [.cleared .ctr] ∧ flagSet (clearing 15 0xBA10).istr .ctr = true ∧
      flagSet t.istr .ctr = false :=
  ⟨clearing_inv, _, rfl, by decide, by decide, by decide, by decide, by decide, by decide⟩

theorem witness_DispatchWritesOnlyItsOwn :
    (∃ t, step (evaluating 0x8001) = .next t) ∧ (evaluating 0x8001).fsm ≠ .idle ∧
      (evaluating 0x8001).agenda.head? ≠ some .powerOn ∧
      ∀ m, (evaluating 0x8001).agenda.head? ≠ some (.peripheral m) :=
  ⟨⟨_, rfl⟩, by decide, by decide, fun m h => by cases h⟩

theorem witness_LatchesAreNotReadInIdle :
    (dispatching 0xBA10).fsm = .idle ∧
      withoutLatches (dispatching 0xBA10) = withoutLatches { dispatching 0xBA10 with snapv := 0x8400, clr := 3 } ∧
      dispatching 0xBA10 ≠ { dispatching 0xBA10 with snapv := 0x8400, clr := 3 } := by decide

theorem witness_CommandsAreHeldWhileBusy :
    (evaluating 0x8001).fsm ≠ .idle ∧ (∃ t, step (evaluating 0x8001) = .next t) ∧
      (evaluating 0x8001).agenda.head? ≠ some .powerOn := ⟨by decide, ⟨_, rfl⟩, by decide⟩

theorem witness_FaultsArePrecise :
    ∃ t, step (evaluating 0x8009) = .next t ∧ (evaluating 0x8009).fsm ≠ .fault ∧ t.fsm = .fault :=
  ⟨_, rfl, by decide, by decide⟩

/-- A halted state whose next turn is the peripheral's. -/
def halted : State := { machine [] with fsm := .fault, faultCause := 0x22, agenda := [.peripheral (.setFlag .sof)] }

theorem witness_FaultIsAbsorbing :
    halted.fsm = .fault ∧ (∃ t, step halted = .next t) ∧ halted.agenda.head? ≠ some .powerOn ∧
      ({ halted with agenda := [] } : State).agenda = [] := ⟨rfl, ⟨_, rfl⟩, by decide, rfl⟩

theorem witness_OnlyValueCommandsWriteResp :
    (∃ t, exec (.epRead 0) (machine []) = .next t ∧ t.fsm ≠ .fault) ∧ returnsValue (.epRead 0) = true ∧
      (∃ t, exec (.epRead 8) (machine []) = .next t ∧ t.fsm = .fault) ∧ returnsValue .epResetAll = false :=
  ⟨⟨_, rfl, by decide⟩, rfl, ⟨_, rfl, by decide⟩, rfl⟩

theorem witness_DecodeInvertsEncode : (Instr.pmaWriteBuf 0x1C0 [0x1201, 0x0200]).wellFormed = true := by decide

theorem witness_DecodedWordsAreEncodings :
    decode (0x030001C000020000#64 :: [0x0000000002001201#64]) = .instr (.pmaWriteBuf 0x1C0 [0x1201, 0x0200]) 2 := by
  decide

theorem witness_StepRunsTheDecodedCommand :
    let s := machine [0x0C00004000000000#64]
    s.fsm = .idle ∧ blocksTurn s ∧ decode (s.stream.drop s.pos) = .instr (.pmaAlloc 64) 1 :=
  ⟨rfl, .inl rfl, by decide⟩

theorem witness_PositionAdvancesByTheCommandLength :
    let s := machine [0x0300010000050000#64, 0x0004000300020001#64, 0x0000000000000005#64]
    s.fsm = .idle ∧ blocksTurn s ∧ pending s = 0x0300010000050000#64 :: s.stream.tail ∧
      decode (0x0300010000050000#64 :: s.stream.tail) = .instr (.pmaWriteBuf 0x100 [1, 2, 3, 4, 5]) 3 :=
  ⟨rfl, .inl rfl, rfl, by decide⟩

theorem witness_IllegalOpcodesFault :
    let s := machine [0x0D00000000000000#64]
    s.fsm = .idle ∧ blocksTurn s ∧ pending s = 0x0D00000000000000#64 :: [] ∧
      (0x0D ≤ (fieldOp 0x0D00000000000000#64).toNat ∧ (fieldOp 0x0D00000000000000#64).toNat ≤ 0x0F) :=
  ⟨rfl, .inl rfl, rfl, by decide⟩

theorem witness_ReservedFieldsFault :
    let s := machine [0x1200000000000001#64]
    s.fsm = .idle ∧ blocksTurn s ∧ pending s = 0x1200000000000001#64 :: [] ∧
      fieldOp 0x1200000000000001#64 = opcodeByte .epResetAll ∧ (opcodeUses .epResetAll).v = false ∧
      fieldV 0x1200000000000001#64 ≠ 0 := ⟨rfl, .inl rfl, rfl, by decide⟩

-- The clause of log entry 5: a PMA_WRITE_BUF with IDX nonzero and its payload word missing.
theorem witness_ReservedFieldsFault_missing_payload :
    let s := machine [0x0301010000030000#64]
    s.fsm = .idle ∧ blocksTurn s ∧ pending s = 0x0301010000030000#64 :: [] ∧
      fieldOp 0x0301010000030000#64 = opcodeByte .pmaWriteBuf ∧ (opcodeUses .pmaWriteBuf).idx = false ∧
      fieldIdx 0x0301010000030000#64 ≠ 0 ∧
      ([] : List CmdWord).length < ((fieldB 0x0301010000030000#64).toNat + 3) / 4 :=
  ⟨rfl, .inl rfl, rfl, by decide⟩

theorem witness_MissingPayloadIsStuck :
    let s := machine [0x0300010000030000#64]
    s.fsm = .idle ∧ pending s = 0x0300010000030000#64 :: [] ∧ fieldOp 0x0300010000030000#64 = 0x03 ∧
      fieldIdx 0x0300010000030000#64 = 0 ∧ fieldV 0x0300010000030000#64 = 0 ∧
      ([] : List CmdWord).length < ((fieldB 0x0300010000030000#64).toNat + 3) / 4 ∧ s.agenda = [] ∧
      autoEnabled s = false ∧ ({ s with agenda := [.block] } : State).agenda.head? = some .block := by decide

theorem witness_StreamIsNeverWritten :
    BlockInv (clearing 15 0xBA10) ∧ (∃ t, step (clearing 15 0xBA10) = .next t) ∧
      (clearing 15 0xBA10).agenda.head? ≠ some .powerOn := ⟨clearing_inv, ⟨_, rfl⟩, by decide⟩

-- Both ways an activation is chosen, and the three ways a chosen one passes.
theorem witness_AutomaticActivation :
    let s : State := { machine [] with istr := 0x8000 }
    (s.agenda = [] ∧ pending s = [] ∧ s.fsm = .idle ∧ s.params.irqAuto = true ∧ irqLine s.istr = true) ∧
      ({ s with agenda := [.activation] } : State).agenda.head? = some .activation ∧
      ({ s with fsm := .clear } : State).fsm ≠ .idle ∧
      ({ s with params := { s.params with irqAuto := false } } : State).params.irqAuto = false ∧
      irqLine ({ s with istr := 0x00FF } : State).istr = false := by decide

theorem witness_PeripheralMovesOnIstr :
    ({ machine [] with agenda := [.peripheral (.setFlag .ctr)] } : State).agenda.head? =
        some (.peripheral (.setFlag .ctr)) ∧
      ({ machine [] with agenda := [.peripheral (.setIdDir 0x1F)] } : State).agenda.head? =
        some (.peripheral (.setIdDir 0x1F)) := by decide

theorem witness_PeripheralMovesOnEndpoints :
    ({ machine [] with agenda := [.peripheral (.rxDone 7 true)] } : State).agenda.head? =
        some (.peripheral (.rxDone 7 true)) ∧
      ({ machine [] with agenda := [.peripheral (.txDone 7)] } : State).agenda.head? =
        some (.peripheral (.txDone 7)) ∧
      ({ machine [] with agenda := [.peripheral (.setState 7 0x7070)] } : State).agenda.head? =
        some (.peripheral (.setState 7 0x7070)) := by decide

-- The two boundary cells of the arena, and a cell of the table that is no move.
theorem witness_PeripheralMovesOnPacketMemory :
    (({ machine [] with agenda := [.peripheral (.writeCell 64 1)] } : State).agenda.head? =
        some (.peripheral (.writeCell 64 1)) ∧ 64 ≤ 64 ∧ 64 < 512) ∧
      ¬(64 ≤ 63 ∧ 63 < 512) ∧ ¬(64 ≤ 512 ∧ 512 < 512) ∧
      ({ machine [] with agenda := [.peripheral (.writeRxCount 7 0x3FF)] } : State).agenda.head? =
        some (.peripheral (.writeRxCount 7 0x3FF)) := by decide

theorem witness_WellBehavedEpIdStaysInRange :
    EpIdNamesEndpoint (withEpr 7 0x8A00 (evaluating 0x8007)) ∧
      nextMoveWellBehaved (withEpr 7 0x8A00 (evaluating 0x8007)) ∧
      (∃ t, step (withEpr 7 0x8A00 (evaluating 0x8007)) = .next t) ∧
      (withEpr 7 0x8A00 (evaluating 0x8007)).fsm = .ctrEval :=
  ⟨⟨by decide, by decide⟩, trivial, ⟨_, rfl⟩, rfl⟩

theorem witness_PowerOnResetsEverything :
    ({ halted with agenda := [.powerOn] } : State).agenda.head? = some .powerOn := by decide

theorem witness_EveryStepKeepsTheInvariant :
    BlockInv (clearing 15 0xBA10) ∧ ∃ t, step (clearing 15 0xBA10) = .next t := ⟨clearing_inv, _, rfl⟩

end Sys2Proof.Tests
end

section
/-! SUPPORT. The scope rules R5, R10 and R38: what a step leaves alone while the block is busy, what no step writes,
and the step of an idle block. -/

namespace Sys2Proof.Machine

/-! ## Taking a turn writes the agenda only -/

@[simp] theorem afterTurn_pma (s : State) : (afterTurn s).pma = s.pma := rfl
@[simp] theorem afterTurn_drawEpoch (s : State) : (afterTurn s).drawEpoch = s.drawEpoch := rfl
@[simp] theorem afterTurn_epr (s : State) : (afterTurn s).epr = s.epr := rfl
@[simp] theorem afterTurn_istr (s : State) : (afterTurn s).istr = s.istr := rfl
@[simp] theorem afterTurn_daddr (s : State) : (afterTurn s).daddr = s.daddr := rfl
@[simp] theorem afterTurn_resp (s : State) : (afterTurn s).resp = s.resp := rfl
@[simp] theorem afterTurn_fsm (s : State) : (afterTurn s).fsm = s.fsm := rfl
@[simp] theorem afterTurn_snapv (s : State) : (afterTurn s).snapv = s.snapv := rfl
@[simp] theorem afterTurn_clr (s : State) : (afterTurn s).clr = s.clr := rfl
@[simp] theorem afterTurn_ctxl (s : State) : (afterTurn s).ctxl = s.ctxl := rfl
@[simp] theorem afterTurn_faultCause (s : State) : (afterTurn s).faultCause = s.faultCause := rfl
@[simp] theorem afterTurn_faultInfo (s : State) : (afterTurn s).faultInfo = s.faultInfo := rfl
@[simp] theorem afterTurn_events (s : State) : (afterTurn s).events = s.events := rfl
@[simp] theorem afterTurn_stream (s : State) : (afterTurn s).stream = s.stream := rfl
@[simp] theorem afterTurn_pos (s : State) : (afterTurn s).pos = s.pos := rfl
@[simp] theorem afterTurn_params (s : State) : (afterTurn s).params = s.params := rfl
@[simp] theorem afterTurn_agenda (s : State) : (afterTurn s).agenda = s.agenda.tail := rfl

/-! ## Busy: no host command runs (R10) -/

/-- An automatic activation is enabled in IDLE only (R209). -/
theorem idle_of_autoEnabled {s : State} (h : autoEnabled s = true) : s.fsm = .idle := by
  simp only [autoEnabled, Bool.and_eq_true, beq_iff_eq] at h
  obtain ⟨⟨-, hidle⟩, -⟩ := h
  exact hidle

/-- What is left of `step_cases` while FSM is not IDLE, but for the power-on reset: no command, no rejected word and no
activation. -/
theorem busy_step_cases {s t : State} (hbusy : s.fsm ≠ .idle) (h : step s = .next t)
    (hpower : s.agenda.head? ≠ some .powerOn) :
    t = afterTurn s ∨ (∃ m, s.agenda.head? = some (.peripheral m) ∧ t = periphMove m (afterTurn s)) ∨
      (s.fsm = .callWait ∧ t = handlerAnswer (afterTurn s)) ∨
      (s.fsm = .resetAct ∧ t = resetStep (afterTurn s)) ∨ (s.fsm = .ctrEval ∧ t = evalStep (afterTurn s)) ∨
      (s.fsm = .clear ∧ t = clearStep (afterTurn s)) := by
  rcases step_cases h with e | ⟨hp, _⟩ | e | e | ⟨hauto, _⟩ | e | e | e | ⟨hidle, _⟩ | ⟨hidle, _⟩ | ⟨hidle, _⟩
  · exact .inl e
  · exact absurd hp hpower
  · exact .inr (.inl e)
  · exact .inr (.inr (.inl e))
  · exact absurd (idle_of_autoEnabled hauto) hbusy
  · exact .inr (.inr (.inr (.inl e)))
  · exact .inr (.inr (.inr (.inr (.inl e))))
  · exact .inr (.inr (.inr (.inr (.inr e))))
  all_goals exact absurd hidle hbusy

/-- From `s` to `t` no host command was read and none answered: the position and RESP stay, no Resp event comes. -/
def commandsHeld (s t : State) : Prop :=
  t.pos = s.pos ∧ t.resp = s.resp ∧ ∀ v, t.events ≠ s.events ++ [.resp v]

theorem commandsHeld_afterTurn (s : State) : commandsHeld s (afterTurn s) := by simp [commandsHeld]

theorem commandsHeld_periphMove (m : PeriphMove) (s : State) : commandsHeld s (periphMove m s) := by
  obtain ⟨-, -, hresp, -, -, -, -, -, -, hevents, -, hpos, -, -⟩ := periphMove_frame m s
  simp [commandsHeld, hresp, hevents, hpos]

theorem commandsHeld_handlerAnswer (s : State) : commandsHeld s (handlerAnswer s) := by
  simp [commandsHeld, handlerAnswer]

theorem commandsHeld_resetStep (s : State) : commandsHeld s (resetStep s) := by simp [commandsHeld, resetStep]

theorem commandsHeld_evalStep (s : State) : commandsHeld s (evalStep s) := by
  rcases evalStep_cases s with e | e | ⟨_, _, e⟩ <;> rw [e]
  · rcases callHandler_cases s with ⟨_, _, e⟩ | ⟨_, e⟩ <;> simp [commandsHeld, e]
  all_goals simp [commandsHeld]

theorem commandsHeld_clearStep (s : State) : commandsHeld s (clearStep s) := by
  rcases clearStep_cases s with ⟨_, _, e⟩ | ⟨_, e⟩ <;> simp [commandsHeld, e]

/-- Settles O35: of the steps left to a busy block, none reads a command or answers one. -/
theorem commandsAreHeldWhileBusy : Obligations.CommandsAreHeldWhileBusy := by
  intro s t hbusy h hpower
  rcases busy_step_cases hbusy h hpower with rfl | ⟨m, -, rfl⟩ | ⟨-, rfl⟩ | ⟨-, rfl⟩ | ⟨-, rfl⟩ | ⟨-, rfl⟩
  · exact commandsHeld_afterTurn s
  · exact commandsHeld_periphMove m (afterTurn s)
  · exact commandsHeld_handlerAnswer (afterTurn s)
  · exact commandsHeld_resetStep (afterTurn s)
  · exact commandsHeld_evalStep (afterTurn s)
  · exact commandsHeld_clearStep (afterTurn s)

/-! ## The stream, the parameters and the position (R5, R38) -/

/-- What one step does to the elements of the host stream: the stream and the parameters stay, and the position stays,
or the power-on reset came, or a command's or a rejected command's words were consumed. -/
theorem step_stream_cases {s t : State} (h : step s = .next t) :
    t.stream = s.stream ∧ t.params = s.params ∧
      (t.pos = s.pos ∨ s.agenda.head? = some .powerOn ∨ ∃ n, t.pos = (consume n s).pos) := by
  rcases step_cases h with rfl | ⟨hpower, rfl⟩ | ⟨m, -, rfl⟩ | ⟨-, rfl⟩ | ⟨-, rfl⟩ | ⟨-, rfl⟩ | ⟨-, rfl⟩ |
    ⟨-, rfl⟩ | ⟨-, i, n, -, hexec⟩ | ⟨-, op, -, rfl⟩ | ⟨-, op, n, -, rfl⟩
  · exact ⟨rfl, rfl, .inl rfl⟩
  · exact ⟨rfl, rfl, .inr (.inl hpower)⟩
  · obtain ⟨-, -, -, -, -, -, -, -, -, -, hstream, hpos, hparams, -⟩ := periphMove_frame m (afterTurn s)
    exact ⟨hstream, hparams, .inl hpos⟩
  · exact ⟨rfl, rfl, .inl rfl⟩
  · obtain ⟨-, -, -, -, -, -, hstream, hpos, hparams, -⟩ := activate_frame s.params.ctx (afterTurn s)
    exact ⟨hstream, hparams, .inl hpos⟩
  · exact ⟨rfl, rfl, .inl rfl⟩
  · obtain ⟨-, -, -, -, -, -, hstream, hpos, hparams, -⟩ := evalStep_frame (afterTurn s)
    exact ⟨hstream, hparams, .inl hpos⟩
  · obtain ⟨-, -, -, -, -, hstream, hpos, hparams, -⟩ := clearStep_frame (afterTurn s)
    exact ⟨hstream, hparams, .inl hpos⟩
  · obtain ⟨-, -, hstream, hpos, hparams⟩ := exec_frame hexec
    exact ⟨hstream, hparams, .inr (.inr ⟨n, hpos⟩)⟩
  · exact ⟨rfl, rfl, .inr (.inr ⟨1, rfl⟩)⟩
  · exact ⟨rfl, rfl, .inr (.inr ⟨n, rfl⟩)⟩

/-- A position inside the stream never goes back when words are consumed (R38). -/
theorem pos_le_consume_pos {s : State} (h : s.pos ≤ s.stream.length) (n : Nat) : s.pos ≤ (consume n s).pos :=
  Nat.le_min.mpr ⟨Nat.le_add_right s.pos n, h⟩

/-- Settles O48: only consuming words and the power-on reset move the position, and the invariant keeps it inside the
stream. -/
theorem streamIsNeverWritten : Obligations.StreamIsNeverWritten := by
  intro s t hinv h
  obtain ⟨hstream, hparams, hpos⟩ := step_stream_cases h
  refine ⟨hstream, hparams, fun hpower => ?_⟩
  rcases hpos with e | hp | ⟨n, e⟩
  · exact e.ge
  · exact absurd hp hpower
  · exact e ▸ pos_le_consume_pos hinv.position n

/-! ## Idle: the block's step is the command at the stream position (R10, R38) -/

/-- In IDLE, with a command at the stream position, the block's step runs it with its words consumed. -/
theorem blockStep_of_fetch {s : State} {i : Instr} {n : Nat} (hidle : s.fsm = .idle) (hf : fetch s = .instr i n) :
    blockStep s = some (exec i (consume n s)) := by
  simp only [blockStep, hidle, commandStep, hf]

/-- Settles O43: taking the turn changes neither the state of the block nor the words it reads. -/
theorem stepRunsTheDecodedCommand : Obligations.StepRunsTheDecodedCommand := by
  intro s i n hidle hturn hdecode
  have hblock : blockStep (afterTurn s) = some (exec i (consume n (afterTurn s))) :=
    blockStep_of_fetch hidle hdecode
  exact step_of_blockStep hturn hblock

end Sys2Proof.Machine
end

section
/-! SUPPORT. The state elements of 10_state.md: the power-on values (R41), the interrupt line (R40), the response
register (R36), and the invariant `BlockInv`, which holds at reset and which every step of every agent keeps. -/

namespace Sys2Proof.Machine

/-! ## The invariant, one lemma per kind of dispatcher state -/

/-- Outside FAULT nothing is recorded, and what is left of the invariant is about the latches. -/
theorem blockInv_of_not_fault {s : State} (hfsm : s.fsm ≠ .fault) (hwf : s.pma.wf) (hpos : s.pos ≤ s.stream.length)
    (hcause : s.faultCause = 0) (hclearing : s.fsm = .clear → ∃ f, recognised f = true ∧ s.clr = flagBit f)
    (hresetting : s.fsm = .resetAct → select s.snapv = some .reset)
    (htransfer : s.fsm = .ctrEval ∨ s.fsm = .callWait → select s.snapv = some .ctr)
    (hcontext : s.fsm ≠ .idle → s.ctxl ≠ none) : BlockInv s where
  memory := hwf
  position := hpos
  cause := iff_of_true hcause hfsm
  record h := absurd h hfsm
  clearing := hclearing
  resetting := hresetting
  transfer := htransfer
  context h _ := hcontext h

/-- IDLE needs no latch. -/
theorem blockInv_of_idle {s : State} (hfsm : s.fsm = .idle) (hwf : s.pma.wf) (hpos : s.pos ≤ s.stream.length)
    (hcause : s.faultCause = 0) : BlockInv s :=
  blockInv_of_not_fault (by simp [hfsm]) hwf hpos hcause (by simp [hfsm]) (by simp [hfsm]) (by simp [hfsm])
    fun h => absurd hfsm h

/-- CLEAR needs a recognised flag to clear, and a context. -/
theorem blockInv_of_clear {s : State} {f : IstrFlag} (hfsm : s.fsm = .clear) (hwf : s.pma.wf)
    (hpos : s.pos ≤ s.stream.length) (hcause : s.faultCause = 0) (hf : recognised f = true)
    (hclr : s.clr = flagBit f) (hctxl : s.ctxl ≠ none) : BlockInv s :=
  blockInv_of_not_fault (by simp [hfsm]) hwf hpos hcause (fun _ => ⟨f, hf, hclr⟩) (by simp [hfsm]) (by simp [hfsm])
    fun _ => hctxl

/-- RESET_ACT needs a snapshot that selects RESET, and a context. -/
theorem blockInv_of_resetAct {s : State} (hfsm : s.fsm = .resetAct) (hwf : s.pma.wf)
    (hpos : s.pos ≤ s.stream.length) (hcause : s.faultCause = 0) (hsel : select s.snapv = some .reset)
    (hctxl : s.ctxl ≠ none) : BlockInv s :=
  blockInv_of_not_fault (by simp [hfsm]) hwf hpos hcause (by simp [hfsm]) (fun _ => hsel) (by simp [hfsm])
    fun _ => hctxl

/-- CTR_EVAL and CALL_WAIT need a snapshot that selects CTR, and a context. -/
theorem blockInv_of_transfer {s : State} (hfsm : s.fsm = .ctrEval ∨ s.fsm = .callWait) (hwf : s.pma.wf)
    (hpos : s.pos ≤ s.stream.length) (hcause : s.faultCause = 0) (hsel : select s.snapv = some .ctr)
    (hctxl : s.ctxl ≠ none) : BlockInv s := by
  refine blockInv_of_not_fault ?_ hwf hpos hcause ?_ ?_ (fun _ => hsel) fun _ => hctxl <;>
    rcases hfsm with h | h <;> simp [h]

/-- Fault entry (R203) establishes what the invariant asks for in FAULT, from any latches and history. -/
theorem blockInv_raiseFault (c : FaultCode) (info : Halfword) {s : State} (hwf : s.pma.wf)
    (hpos : s.pos ≤ s.stream.length) : BlockInv (raiseFault c info s) where
  memory := hwf
  position := hpos
  cause := iff_of_false (faultByte_ne_zero c) fun h => h rfl
  record _ := ⟨c, info, by simp⟩
  clearing := by simp
  resetting := by simp
  transfer := by simp
  context := by simp

/-- An update of the packet memory, the endpoint registers and the elements the invariant does not name keeps it. -/
theorem blockInv_of_frame {s t : State} (hinv : BlockInv s) (hwf : t.pma.wf) (hpos : t.pos = s.pos)
    (hstream : t.stream = s.stream) (hfsm : t.fsm = s.fsm) (hsnapv : t.snapv = s.snapv) (hclr : t.clr = s.clr)
    (hctxl : t.ctxl = s.ctxl) (hcause : t.faultCause = s.faultCause) (hinfo : t.faultInfo = s.faultInfo)
    (hevents : t.events = s.events) : BlockInv t where
  memory := hwf
  position := by rw [hpos, hstream]; exact hinv.position
  cause := by rw [hcause, hfsm]; exact hinv.cause
  record := by rw [hfsm, hevents, hcause, hinfo]; exact hinv.record
  clearing := by rw [hfsm, hclr]; exact hinv.clearing
  resetting := by rw [hfsm, hsnapv]; exact hinv.resetting
  transfer := by rw [hfsm, hsnapv]; exact hinv.transfer
  context := by rw [hfsm, hctxl]; exact hinv.context

/-- Outside FAULT no fault is recorded. -/
theorem BlockInv.cause_eq_zero {s : State} (hinv : BlockInv s) {f : Fsm} (hfsm : s.fsm = f) (hf : f ≠ .fault) :
    s.faultCause = 0 := hinv.cause.mpr (hfsm ▸ hf)

/-! ## The moves of the agents keep the invariant -/

theorem blockInv_afterTurn {s : State} (hinv : BlockInv s) : BlockInv (afterTurn s) :=
  blockInv_of_frame hinv hinv.memory rfl rfl rfl rfl rfl rfl rfl rfl rfl

/-- The position stays inside the stream when words are consumed (R38). -/
theorem blockInv_consume (n : Nat) {s : State} (hinv : BlockInv s) : BlockInv (consume n s) :=
  { hinv with position := Nat.min_le_right (s.pos + n) s.stream.length }

theorem blockInv_powerOn (s : State) : BlockInv (powerOn s) :=
  blockInv_of_idle rfl (powerOn_wf s) (Nat.zero_le _) rfl

theorem blockInv_periphMove (m : PeriphMove) {s : State} (hinv : BlockInv s) : BlockInv (periphMove m s) := by
  obtain ⟨-, -, -, hfsm, hsnapv, hclr, hctxl, hcause, hinfo, hevents, hstream, hpos, -, -⟩ := periphMove_frame m s
  exact blockInv_of_frame hinv (periphMove_wf m hinv.memory) hpos hstream hfsm hsnapv hclr hctxl hcause hinfo hevents

/-- The answer ends the wait with CTR to be cleared, in the context of the activation (R169). -/
theorem blockInv_handlerAnswer {s : State} (hinv : BlockInv s) (hfsm : s.fsm = .callWait) :
    BlockInv (handlerAnswer s) :=
  blockInv_of_clear (f := .ctr) rfl hinv.memory hinv.position (hinv.cause_eq_zero hfsm (by decide)) rfl rfl
    (hinv.context (by simp [hfsm]) (by simp [hfsm]))

/-- An activation latches the snapshot its state was chosen by, and the context (R162); or it traps (R171). -/
theorem blockInv_activate (ctx : Ctx) {s : State} (hinv : BlockInv s) (hfsm : s.fsm = .idle) :
    BlockInv (activate ctx s) := by
  have hcause : s.faultCause = 0 := hinv.cause_eq_zero hfsm (by decide)
  rcases activate_cases ctx s with ⟨hsel, e⟩ | ⟨hsel, e⟩ | ⟨f, hsel, -, -, e⟩ | ⟨-, e⟩ <;> rw [e]
  · exact blockInv_of_resetAct rfl hinv.memory hinv.position hcause hsel (by simp)
  · exact blockInv_of_transfer (.inl rfl) hinv.memory hinv.position hcause hsel (by simp)
  · obtain ⟨hrec, -⟩ := select_eq_some hsel
    exact blockInv_of_clear rfl hinv.memory hinv.position hcause hrec rfl (by simp)
  · exact blockInv_raiseFault _ _ hinv.memory hinv.position

theorem blockInv_resetStep {s : State} (hinv : BlockInv s) (hfsm : s.fsm = .resetAct) : BlockInv (resetStep s) :=
  blockInv_of_clear (f := .reset) rfl (resetAll_wf s) hinv.position (hinv.cause_eq_zero hfsm (by decide)) rfl rfl
    (hinv.context (by simp [hfsm]) (by simp [hfsm]))

/-- The handler call keeps the snapshot and the context of the evaluate state it leaves (R168). -/
theorem blockInv_callHandler {s : State} (hinv : BlockInv s) (hfsm : s.fsm = .ctrEval) :
    BlockInv (callHandler s) := by
  have hcause : s.faultCause = 0 := hinv.cause_eq_zero hfsm (by decide)
  have hsel : select s.snapv = some .ctr := hinv.transfer (.inl hfsm)
  have hctxl : s.ctxl ≠ none := hinv.context (by simp [hfsm]) (by simp [hfsm])
  rcases callHandler_cases s with ⟨_, -, e⟩ | ⟨hnone, -⟩
  · rw [e]
    exact blockInv_of_transfer (.inr rfl) hinv.memory hinv.position hcause hsel hctxl
  · exact absurd hnone hctxl

theorem blockInv_evalStep {s : State} (hinv : BlockInv s) (hfsm : s.fsm = .ctrEval) : BlockInv (evalStep s) := by
  rcases evalStep_cases s with e | e | ⟨c, info, e⟩ <;> rw [e]
  · exact blockInv_callHandler hinv hfsm
  · exact blockInv_of_clear (f := .ctr) rfl hinv.memory hinv.position (hinv.cause_eq_zero hfsm (by decide)) rfl rfl
      (hinv.context (by simp [hfsm]) (by simp [hfsm]))
  · exact blockInv_raiseFault c info hinv.memory hinv.position

theorem blockInv_clearStep {s : State} (hinv : BlockInv s) (hfsm : s.fsm = .clear) : BlockInv (clearStep s) := by
  have hcause : s.faultCause = 0 := hinv.cause_eq_zero hfsm (by decide)
  rcases clearStep_cases s with ⟨_, -, e⟩ | ⟨-, e⟩ <;> rw [e] <;>
    exact blockInv_of_idle rfl hinv.memory hinv.position hcause

/-- A command of the idle block leaves it idle, faulted or with a dispatch activated. -/
theorem blockInv_exec {i : Instr} {s t : State} (hinv : BlockInv s) (hfsm : s.fsm = .idle)
    (h : exec i s = .next t) : BlockInv t := by
  have hwf : t.pma.wf := exec_wf h hinv.memory
  have hcause : s.faultCause = 0 := hinv.cause_eq_zero hfsm (by decide)
  rcases exec_cases h with ⟨c, info, rfl⟩ | ⟨_, rfl⟩ | ⟨_, _, rfl⟩ | ⟨_, _, rfl⟩ | ⟨_, _, rfl⟩ | rfl | ⟨-, rfl⟩
  · exact blockInv_raiseFault c info hinv.memory hinv.position
  case inr.inr.inr.inr.inr.inr => exact blockInv_activate s.params.ctx hinv hfsm
  all_goals exact blockInv_of_idle hfsm hwf hinv.position hcause

/-- Settles O58: by the cases of a step, each agent's move keeps the invariant from the state with the turn taken. -/
theorem everyStepKeepsTheInvariant : Obligations.EveryStepKeepsTheInvariant := by
  intro s t hs h
  have hinv : BlockInv (afterTurn s) := blockInv_afterTurn hs
  rcases step_cases h with rfl | ⟨-, rfl⟩ | ⟨m, -, rfl⟩ | ⟨hfsm, rfl⟩ | ⟨hauto, rfl⟩ | ⟨hfsm, rfl⟩ | ⟨hfsm, rfl⟩ |
    ⟨hfsm, rfl⟩ | ⟨hfsm, i, n, -, hexec⟩ | ⟨-, op, -, rfl⟩ | ⟨-, op, n, -, rfl⟩
  · exact hinv
  · exact blockInv_powerOn (afterTurn s)
  · exact blockInv_periphMove m hinv
  · exact blockInv_handlerAnswer hinv hfsm
  · exact blockInv_activate s.params.ctx hinv (idle_of_autoEnabled hauto)
  · exact blockInv_resetStep hinv hfsm
  · exact blockInv_evalStep hinv hfsm
  · exact blockInv_clearStep hinv hfsm
  · exact blockInv_exec (blockInv_consume n hinv) hfsm hexec
  · exact blockInv_raiseFault _ _ hinv.memory (blockInv_consume 1 hinv).position
  · exact blockInv_raiseFault _ _ hinv.memory (blockInv_consume n hinv).position

/-- Settles O57: reset is an idle state with nothing recorded. -/
theorem resetMeetsTheInvariant : Obligations.ResetMeetsTheInvariant :=
  blockInv_of_idle rfl reset_wf (Nat.zero_le _) rfl

/-! ## The power-on values (R41) -/

/-- No cell is known at reset, so each reads as its draw. -/
theorem readCell_reset (a : Nat) : readCell State.reset a = Config.drawCell State.reset.drawEpoch a := rfl

theorem reset_epr (i : Fin 8) : State.reset.epr[i.val] = Config.epPowerOn := by simp [State.reset]

/-- Settles O55, element by element. -/
theorem powerOnValues : Obligations.PowerOnValues :=
  ⟨reset_epr, rfl, rfl, rfl, rfl, rfl, rfl, rfl, rfl, rfl, rfl, rfl, readCell_reset, rfl, rfl⟩

/-! ## The interrupt line (R40) -/

/-- The flags stand at the bits 8 to 15 of ISTR (R31). -/
theorem flagBit_ge (f : IstrFlag) : 8 ≤ (flagBit f).toNat := by cases f <;> decide

/-- Each of the bits 8 to 15 of ISTR holds a flag (R31). -/
theorem exists_flagBit : ∀ j : Fin 8, ∃ f ∈ allFlags, (flagBit f).toNat = 8 + j.val := by decide

/-- A flag is the bit of ISTR[15:8] that stands eight places lower. -/
theorem flagSet_eq_extract (v : Halfword) (f : IstrFlag) :
    flagSet v f = (v.extractLsb' 8 8).getLsbD ((flagBit f).toNat - 8) := by
  have hge : 8 ≤ (flagBit f).toNat := flagBit_ge f
  have hlt : (flagBit f).toNat - 8 < 8 := by omega
  simp [flagSet, hlt, Nat.add_sub_cancel' hge]

/-- Settles O49: ISTR[15:8] is nonzero exactly when one of its bits is 1, and its bits are the flags. -/
theorem interruptLineFollowsTheFlags : Obligations.InterruptLineFollowsTheFlags := by
  intro v
  have hline : irqLine v = true ↔ v.extractLsb' 8 8 ≠ 0 := bne_iff_ne
  rw [hline]
  constructor
  · contrapose!
    intro hclear
    refine BitVec.eq_of_getLsbD_eq fun j hj => ?_
    obtain ⟨f, -, hf⟩ := exists_flagBit ⟨j, hj⟩
    have hbit := flagSet_eq_extract v f
    rw [hf, Nat.add_sub_cancel_left] at hbit
    simp [← hbit, hclear f]
  · rintro ⟨f, hf⟩ hzero
    simp [flagSet_eq_extract, hzero] at hf

/-! ## The response (R36) -/

/-- What a command guarded by a range check can leave. -/
theorem withRange_inv {ok : Bool} {info : Halfword} {body : State → State} {s t : State}
    (h : withRange ok info body s = t) : t = body s ∨ ∃ c info, t = raiseFault c info s := by
  subst h
  rcases withRange_cases ok info body s with ⟨-, e⟩ | ⟨-, e⟩
  · exact .inl e
  · exact .inr ⟨_, _, e⟩

/-- What a command guarded by the RX size check can leave. -/
theorem withRxSize_inv {size : Halfword} {body : State → State} {s t : State}
    (h : withRxSize size body s = t) : t = body s ∨ ∃ c info, t = raiseFault c info s := by
  subst h
  rcases withRxSize_cases size body s with ⟨-, e⟩ | ⟨c, -, e⟩
  · exact .inl e
  · exact .inr ⟨c, _, e⟩

/-- A value command answers or faults, and does nothing else (R36). -/
theorem exec_of_returnsValue {i : Instr} {s t : State} (hi : returnsValue i = true) (h : exec i s = .next t) :
    (∃ v, t = respond v s) ∨ ∃ c info, t = raiseFault c info s := by
  cases i with
  | pmaGet offset =>
    injection h with h
    exact (withRange_inv h).imp_left fun e => ⟨_, e⟩
  | bdtTxAddr ep | bdtTxCount ep | bdtRxAddr ep | bdtRxCount ep | epRead ep =>
    injection h with h
    exact (withEndpoint_inv h).imp_left fun ⟨_, e⟩ => ⟨_, e⟩
  | encodeRxSize size =>
    injection h with h
    exact (withRxSize_inv h).imp_left fun e => ⟨_, e⟩
  | pmaAlloc size =>
    injection h with h
    split at h
    · exact .inr ⟨_, _, h.symm⟩
    · exact .inl ⟨_, h.symm⟩
  | pmaSet | pmaWriteBuf | bdtSetTxAddr | bdtSetRxAddr | bdtSetRxSize | epWrite | epResetAll | irqDispatch => cases hi

/-- A command that returns nothing leaves RESP, faulting or not (R36). -/
theorem exec_resp_of_not_returnsValue {i : Instr} {s t : State} (hi : returnsValue i = false)
    (h : exec i s = .next t) : t.resp = s.resp := by
  cases i with
  | pmaSet | pmaWriteBuf =>
    injection h with h
    rcases withRange_inv h with rfl | ⟨_, _, rfl⟩ <;> rfl
  | bdtSetTxAddr | bdtSetRxAddr | epWrite =>
    injection h with h
    rcases withEndpoint_inv h with ⟨_, rfl⟩ | ⟨_, _, rfl⟩ <;> rfl
  | bdtSetRxSize =>
    injection h with h
    rcases withEndpoint_inv h with ⟨_, e⟩ | ⟨_, _, rfl⟩
    · rcases withRxSize_inv e.symm with rfl | ⟨_, _, rfl⟩ <;> rfl
    · rfl
  | epResetAll =>
    injection h with h
    exact h ▸ rfl
  | irqDispatch =>
    injection h with h
    obtain ⟨-, -, -, -, -, hresp, -⟩ := activate_frame s.params.ctx s
    exact h ▸ hresp
  | pmaGet | bdtTxAddr | bdtTxCount | bdtRxAddr | bdtRxCount | encodeRxSize | pmaAlloc | epRead => cases hi

/-- Settles O39: a value command answers or faults, any other leaves RESP, and no command leaves its frame. -/
theorem onlyValueCommandsWriteResp : Obligations.OnlyValueCommandsWriteResp := by
  intro s t i h
  obtain ⟨histr, hdaddr, hstream, hpos, -⟩ := exec_frame h
  refine ⟨fun hi hrun => ?_, fun hi => exec_resp_of_not_returnsValue hi h, fun hs ht => ?_, histr, hdaddr, hstream,
    hpos⟩
  · rcases exec_of_returnsValue hi h with ⟨v, rfl⟩ | ⟨c, info, rfl⟩
    · exact ⟨v, rfl, rfl⟩
    · exact absurd rfl hrun
  · cases hi : returnsValue i with
    | false => exact exec_resp_of_not_returnsValue hi h
    | true =>
      rcases exec_of_returnsValue hi h with ⟨_, rfl⟩ | ⟨_, _, rfl⟩
      · exact absurd ht hs
      · rfl

end Sys2Proof.Machine
end

section
/-! SUPPORT. The encoding of 30_encoding.md: what the decoder answers, one lemma per outcome, and the two round trips
between the decoder and the encoder (R70 to R79). -/

namespace Sys2Proof

open Laws

/-! ## What the decoder answers (R72 to R78) -/

/-- An opcode of no row is rejected (R75). -/
theorem decode_of_illegal {w : CmdWord} (h : opcodeOfByte (fieldOp w) = none) (rest : List CmdWord) :
    decode (w :: rest) = .reject (.illegalCommand (fieldOp w)) := by
  simp only [decode, h]

/-- A nonzero reserved field is reported whatever follows the word (R74, R76). -/
theorem decode_of_reserved {w : CmdWord} {op : Opcode} (hop : fieldOp w = opcodeByte op)
    (hzero : reservedZero (opcodeUses op) w = false) (rest : List CmdWord) :
    decode (w :: rest) = .reject (.reservedNonzero (fieldOp w) (1 + payloadWords op w)) := by
  simp [decode, hop, hzero]

/-- A payload that is not all there is waited for (R72). -/
theorem decode_of_missing {w : CmdWord} {rest : List CmdWord} {op : Opcode} (hop : fieldOp w = opcodeByte op)
    (hzero : reservedZero (opcodeUses op) w = true) (hlen : rest.length < payloadWords op w) :
    decode (w :: rest) = .reject .payloadMissing := by
  simp [decode, hop, hzero, hlen]

/-- What remains is a command with its payload (R71, R72). -/
theorem decode_of_present {w : CmdWord} {rest : List CmdWord} {op : Opcode} (hop : fieldOp w = opcodeByte op)
    (hzero : reservedZero (opcodeUses op) w = true) (hlen : payloadWords op w ≤ rest.length) :
    decode (w :: rest) =
      .instr (assembleInstr op w (rest.take (payloadWords op w))) (1 + payloadWords op w) := by
  simp [decode, hop, hzero, hlen]

/-- What the decoder answers for a word, with the reason. -/
theorem decode_cases (w : CmdWord) (rest : List CmdWord) :
    (opcodeOfByte (fieldOp w) = none ∧ decode (w :: rest) = .reject (.illegalCommand (fieldOp w))) ∨
      ∃ op, fieldOp w = opcodeByte op ∧
        ((reservedZero (opcodeUses op) w = false ∧
            decode (w :: rest) = .reject (.reservedNonzero (fieldOp w) (1 + payloadWords op w))) ∨
          (reservedZero (opcodeUses op) w = true ∧ rest.length < payloadWords op w ∧
            decode (w :: rest) = .reject .payloadMissing) ∨
          (reservedZero (opcodeUses op) w = true ∧ payloadWords op w ≤ rest.length ∧
            decode (w :: rest) =
              .instr (assembleInstr op w (rest.take (payloadWords op w))) (1 + payloadWords op w))) := by
  cases hrow : opcodeOfByte (fieldOp w) with
  | none => exact .inl ⟨rfl, decode_of_illegal hrow rest⟩
  | some op =>
    have hop : fieldOp w = opcodeByte op := opcodeOfByte_eq_some.mp hrow
    refine .inr ⟨op, hop, ?_⟩
    cases hzero : reservedZero (opcodeUses op) w with
    | false => exact .inl ⟨rfl, decode_of_reserved hop hzero rest⟩
    | true =>
      rcases Nat.lt_or_ge rest.length (payloadWords op w) with hlen | hlen
      · exact .inr (.inl ⟨rfl, hlen, decode_of_missing hop hzero hlen⟩)
      · exact .inr (.inr ⟨rfl, hlen, decode_of_present hop hzero hlen⟩)

/-- A command comes from a word of its row, with zero in the reserved fields and the payload there. -/
theorem decode_eq_instr {w : CmdWord} {rest : List CmdWord} {i : Instr} {n : Nat}
    (h : decode (w :: rest) = .instr i n) :
    ∃ op, fieldOp w = opcodeByte op ∧ reservedZero (opcodeUses op) w = true ∧ payloadWords op w ≤ rest.length ∧
      i = assembleInstr op w (rest.take (payloadWords op w)) ∧ n = 1 + payloadWords op w := by
  rcases decode_cases w rest with ⟨-, e⟩ | ⟨op, hop, ⟨-, e⟩ | ⟨-, -, e⟩ | ⟨hzero, hlen, e⟩⟩ <;> rw [e] at h <;> cases h
  exact ⟨op, hop, hzero, hlen, rfl, rfl⟩

/-- Only an opcode of no row is rejected as illegal (R75). -/
theorem decode_eq_illegalCommand_iff {w : CmdWord} {rest : List CmdWord} :
    decode (w :: rest) = .reject (.illegalCommand (fieldOp w)) ↔ opcodeOfByte (fieldOp w) = none := by
  refine ⟨fun h => ?_, fun h => decode_of_illegal h rest⟩
  rcases decode_cases w rest with ⟨hnone, -⟩ | ⟨op, -, ⟨-, e⟩ | ⟨-, -, e⟩ | ⟨-, -, e⟩⟩
  · exact hnone
  all_goals rw [e] at h; cases h

/-- The reserved fields of a row are zero (R74). -/
theorem reservedZero_iff {u : Uses} {w : CmdWord} :
    reservedZero u w = true ↔
      (u.idx = false → fieldIdx w = 0) ∧ (u.a = false → fieldA w = 0) ∧ (u.b = false → fieldB w = 0) ∧
        (u.v = false → fieldV w = 0) := by
  simp [reservedZero, and_assoc, Classical.or_iff_not_imp_left]

/-! ## A command's words decode to the command (R70, R72, R73) -/

/-- Every command's first word is one of its row, with zero in the reserved fields (R73, R74). -/
theorem encodedOpcode (i : Instr) : EncodedOpcode.Statement i := by
  cases i with
  | pmaGet offset => exact EncodedOpcode.pmaGet offset
  | pmaSet offset value => exact EncodedOpcode.pmaSet offset value
  | pmaWriteBuf base data => exact EncodedOpcode.pmaWriteBuf base data
  | bdtTxAddr ep => exact EncodedOpcode.bdtTxAddr ep
  | bdtSetTxAddr ep addr => exact EncodedOpcode.bdtSetTxAddr ep addr
  | bdtTxCount ep => exact EncodedOpcode.bdtTxCount ep
  | bdtRxAddr ep => exact EncodedOpcode.bdtRxAddr ep
  | bdtSetRxAddr ep addr => exact EncodedOpcode.bdtSetRxAddr ep addr
  | bdtRxCount ep => exact EncodedOpcode.bdtRxCount ep
  | encodeRxSize size => exact EncodedOpcode.encodeRxSize size
  | bdtSetRxSize ep size => exact EncodedOpcode.bdtSetRxSize ep size
  | pmaAlloc size => exact EncodedOpcode.pmaAlloc size
  | epRead ep => exact EncodedOpcode.epRead ep
  | epWrite ep value => exact EncodedOpcode.epWrite ep value
  | epResetAll => exact EncodedOpcode.epResetAll
  | irqDispatch => exact EncodedOpcode.irqDispatch

/-- The first word asks for the other words, and together they assemble to the command again. -/
theorem assembleInstr_encode {i : Instr} {w : CmdWord} {ws : List CmdWord} (hi : i.wellFormed = true)
    (h : encode i = w :: ws) :
    payloadWords (EncodedOpcode.rowOf i) w = ws.length ∧ assembleInstr (EncodedOpcode.rowOf i) w ws = i := by
  cases i with
  | pmaWriteBuf base data =>
    obtain ⟨rfl, rfl⟩ := List.cons.inj h
    have hlen : data.length < 2 ^ 16 := of_decide_eq_true hi
    have hfield : (BitVec.ofNat 16 data.length).toNat = data.length := by
      rw [BitVec.toNat_ofNat, Nat.mod_eq_of_lt hlen]
    simp [EncodedOpcode.rowOf, payloadWords, assembleInstr, hfield, length_packHalfwords, unpack_pack]
  | pmaGet | pmaSet | bdtTxAddr | bdtSetTxAddr | bdtTxCount | bdtRxAddr | bdtSetRxAddr | bdtRxCount | encodeRxSize
  | bdtSetRxSize | pmaAlloc | epRead | epWrite | epResetAll | irqDispatch =>
    obtain ⟨rfl, rfl⟩ := List.cons.inj h
    simp [EncodedOpcode.rowOf, payloadWords, assembleInstr]

/-- Settles O40: the first word selects the command's row and asks for as many words as the encoder wrote after it. -/
theorem decodeInvertsEncode : Obligations.DecodeInvertsEncode := by
  intro i rest hi
  obtain ⟨w, ws, hws, hrow, hzero⟩ := encodedOpcode i
  obtain ⟨hpayload, hassemble⟩ := assembleInstr_encode hi hws
  have hlen : payloadWords (EncodedOpcode.rowOf i) w ≤ (ws ++ rest).length := by simp [hpayload]
  rw [hws, List.cons_append, decode_of_present (opcodeOfByte_eq_some.mp hrow) hzero hlen, hpayload,
    List.take_left, hassemble, List.length_cons, Nat.add_comm]

/-! ## A decoded command's first word is the word it was read from (R70, R74, R77) -/

/-- A word of a row is made of its five fields (R70). -/
theorem commandWord_fields {w : CmdWord} {op : Opcode} (hop : fieldOp w = opcodeByte op) :
    commandWord op (fieldIdx w) (fieldA w) (fieldB w) (fieldV w) = w := by
  rw [commandWord, ← hop, fieldOp, fieldIdx, fieldA, fieldB, fieldV,
    BitVec.extractLsb'_append_extractLsb'_eq_extractLsb' (show 56 = 48 + 8 from rfl),
    BitVec.extractLsb'_append_extractLsb'_eq_extractLsb' (show 48 = 32 + 16 from rfl),
    BitVec.extractLsb'_append_extractLsb'_eq_extractLsb' (show 32 = 16 + 16 from rfl),
    BitVec.extractLsb'_append_extractLsb'_eq_extractLsb' (show 16 = 0 + 16 from rfl)]
  exact BitVec.extractLsb'_eq_self

/-- With zero in the reserved fields, it is made of the fields its row uses (R74). -/
theorem commandWord_used {w : CmdWord} {op : Opcode} (hop : fieldOp w = opcodeByte op)
    (hzero : reservedZero (opcodeUses op) w = true) :
    commandWord op (if (opcodeUses op).idx then fieldIdx w else 0) (if (opcodeUses op).a then fieldA w else 0)
      (if (opcodeUses op).b then fieldB w else 0) (if (opcodeUses op).v then fieldV w else 0) = w := by
  obtain ⟨hidx, ha, hb, hv⟩ := reservedZero_iff.mp hzero
  have used : ∀ {k : Nat} {u : Bool} {f : BitVec k}, (u = false → f = 0) → (if u then f else 0) = f :=
    fun h => ite_eq_left_iff.mpr fun hu => (h (Bool.eq_false_of_not_eq_true hu)).symm
  rw [used hidx, used ha, used hb, used hv, commandWord_fields hop]

/-- A word holds four halfwords (R72). -/
theorem length_flatMap_wordHalfwords (ws : List CmdWord) : (ws.flatMap wordHalfwords).length = 4 * ws.length := by
  induction ws with
  | nil => rfl
  | cons w ws ih => rw [List.flatMap_cons, List.length_append, ih, List.length_cons, Nat.mul_succ, Nat.add_comm]; rfl

/-- Payload words that hold at least `n` halfwords give exactly `n` (R72). -/
theorem length_unpackHalfwords {n : Nat} {ws : List CmdWord} (h : n ≤ 4 * ws.length) :
    (unpackHalfwords n ws).length = n := by
  rw [unpackHalfwords, List.length_take, length_flatMap_wordHalfwords, Nat.min_eq_left h]

/-- Encoding the command made of a word gives that word back, and as many words as were read. -/
theorem encode_assembleInstr {w : CmdWord} {op : Opcode} {payload : List CmdWord}
    (hop : fieldOp w = opcodeByte op) (hzero : reservedZero (opcodeUses op) w = true)
    (hpayload : payload.length = payloadWords op w) :
    (assembleInstr op w payload).wellFormed = true ∧ (encode (assembleInstr op w payload)).head? = some w ∧
      (encode (assembleInstr op w payload)).length = 1 + payloadWords op w := by
  have hw := commandWord_used hop hzero
  cases op with
  | pmaWriteBuf =>
    have hdata : (unpackHalfwords (fieldB w).toNat payload).length = (fieldB w).toNat := by
      refine length_unpackHalfwords ?_
      simp only [payloadWords] at hpayload
      omega
    refine ⟨?_, ?_, ?_⟩
    · simp [assembleInstr, Instr.wellFormed, payloadFits, hdata, (fieldB w).isLt]
    · simpa [assembleInstr, encode, hdata, opcodeUses] using hw
    · simp [assembleInstr, encode, length_packHalfwords, hdata, payloadWords, Nat.add_comm]
  | pmaGet | pmaSet | bdtTxAddr | bdtSetTxAddr | bdtTxCount | bdtRxAddr | bdtSetRxAddr | bdtRxCount | encodeRxSize
  | bdtSetRxSize | pmaAlloc | epRead | epWrite | epResetAll | irqDispatch => exact ⟨rfl, congrArg some hw, rfl⟩

/-- Settles O41: a word that decodes has its row's opcode, zero in the reserved fields and its payload after it. -/
theorem decodedWordsAreEncodings : Obligations.DecodedWordsAreEncodings := by
  intro w rest i n h
  obtain ⟨op, hop, hzero, hlen, rfl, rfl⟩ := decode_eq_instr h
  obtain ⟨hwf, hhead, hlength⟩ := encode_assembleInstr hop hzero (List.length_take_of_le hlen)
  exact ⟨hwf, hhead, hlength, by omega⟩

end Sys2Proof
end

section
/-! SUPPORT. The command stream of 30_encoding.md as the step reads it: the length of a command and the position (R78),
the words that fault (R74, R75), a missing payload (R72), and the sample words of R81. -/

namespace Sys2Proof.Machine

/-! ## The opcode map (R73, R75) -/

/-- The opcodes of no row (R75). -/
theorem opcodeOfByte_eq_none {b : Byte} :
    opcodeOfByte b = none ↔
      b.toNat = 0 ∨ (0x0D ≤ b.toNat ∧ b.toNat ≤ 0x0F) ∨ (0x13 ≤ b.toNat ∧ b.toNat ≤ 0x1F) ∨ 0x21 ≤ b.toNat := by
  revert b; decide

/-- Opcode 3 is PMA_WRITE_BUF, the only row with a payload (R72, R73). -/
theorem payloadWords_eq {w : CmdWord} {op : Opcode} (hop : fieldOp w = opcodeByte op) :
    payloadWords op w = if (fieldOp w).toNat = 3 then ((fieldB w).toNat + 3) / 4 else 0 := by
  rw [hop]
  cases op <;> rfl

/-! ## Words ahead (R38) -/

/-- The block reads the words ahead. -/
theorem fetch_eq_decode {s : State} {ws : List CmdWord} (h : pending s = ws) : fetch s = decode ws := by
  rw [fetch, h]

/-- The stream reaches past the words ahead of the position. -/
theorem length_stream_of_pending {s : State} {w : CmdWord} {rest : List CmdWord} (h : pending s = w :: rest) :
    s.stream.length = s.pos + (rest.length + 1) := by
  have hlen : s.stream.length - s.pos = rest.length + 1 := by
    rw [← List.length_drop, ← List.length_cons, ← h, pending]
  omega

/-- Words that are there are consumed in full. -/
theorem consume_pos_of_le {s : State} {n : Nat} (h : s.pos + n ≤ s.stream.length) : (consume n s).pos = s.pos + n :=
  Nat.min_eq_left h

/-- Consuming at least one word, with one ahead, moves the position. -/
theorem pos_lt_consume_pos {s : State} (h : s.pos < s.stream.length) {n : Nat} (hn : 0 < n) :
    s.pos < (consume n s).pos := by
  simp only [consume_pos]
  omega

/-- Settles O44: the step is the decoded command's, all of whose words are in the stream. -/
theorem positionAdvancesByTheCommandLength : Obligations.PositionAdvancesByTheCommandLength := by
  intro s w rest i n hidle hturn hpending h
  obtain ⟨-, -, -, hle⟩ := decodedWordsAreEncodings w rest i n h
  obtain ⟨op, hop, -, -, -, rfl⟩ := decode_eq_instr h
  refine ⟨?_, ?_⟩
  · rw [payloadWords_eq hop]
    split <;> rfl
  · obtain ⟨t, ht⟩ := exec_answers_next i (consume (1 + payloadWords op w) (afterTurn s))
    obtain ⟨-, -, -, hpos, -⟩ := exec_frame ht
    have hstream := length_stream_of_pending hpending
    refine ⟨t, ?_, hpos.trans (consume_pos_of_le (s := afterTurn s) ?_)⟩
    · rw [← ht]
      exact stepRunsTheDecodedCommand s i _ hidle hturn ((fetch_eq_decode hpending).trans h)
    · simp only [afterTurn_pos, afterTurn_stream]
      omega

/-! ## Words that fault (R74, R75, R203) -/

/-- In IDLE, the block's step on a word of no row. -/
theorem blockStep_of_illegal {s : State} {op : Byte} (hidle : s.fsm = .idle)
    (hf : fetch s = .reject (.illegalCommand op)) :
    blockStep s = some (.next (raiseFault .illegalCommand (op.setWidth 16) (consume 1 s))) := by
  simp only [blockStep, hidle, commandStep, hf]

/-- In IDLE, the block's step on a word with a nonzero reserved field. -/
theorem blockStep_of_reserved {s : State} {op : Byte} {n : Nat} (hidle : s.fsm = .idle)
    (hf : fetch s = .reject (.reservedNonzero op n)) :
    blockStep s = some (.next (raiseFault .reservedNonzero (op.setWidth 16) (consume n s))) := by
  simp only [blockStep, hidle, commandStep, hf]

/-- In IDLE, the block has no step while a payload is missing. -/
theorem blockStep_of_missing {s : State} (hidle : s.fsm = .idle) (hf : fetch s = .reject .payloadMissing) :
    blockStep s = none := by
  simp only [blockStep, hidle, commandStep, hf]

/-- Settles O45: the rejected opcodes are those of no row, and the rejected word is there to be consumed. -/
theorem illegalOpcodesFault : Obligations.IllegalOpcodesFault := by
  intro s w rest hidle hturn hpending
  rw [decode_eq_illegalCommand_iff, opcodeOfByte_eq_none]
  refine ⟨Iff.rfl, fun hop => ?_⟩
  have hf : fetch (afterTurn s) = .reject (.illegalCommand (fieldOp w)) :=
    (fetch_eq_decode hpending).trans (decode_of_illegal (opcodeOfByte_eq_none.mpr hop) rest)
  have hpos : (consume 1 s).pos = s.pos + 1 :=
    consume_pos_of_le (by rw [length_stream_of_pending hpending]; omega)
  rw [step_of_blockStep hturn (blockStep_of_illegal hidle hf), BitVec.ofNat_toNat, ← hpos]
  rfl

/-- A nonzero field the row does not use is a nonzero reserved field (R74). -/
theorem reservedZero_eq_false {u : Uses} {w : CmdWord}
    (h : u.idx = false ∧ fieldIdx w ≠ 0 ∨ u.a = false ∧ fieldA w ≠ 0 ∨ u.b = false ∧ fieldB w ≠ 0 ∨
      u.v = false ∧ fieldV w ≠ 0) : reservedZero u w = false := by
  by_contra hzero
  obtain ⟨hidx, ha, hb, hv⟩ := reservedZero_iff.mp (Bool.eq_true_of_not_eq_false hzero)
  rcases h with ⟨hu, hne⟩ | ⟨hu, hne⟩ | ⟨hu, hne⟩ | ⟨hu, hne⟩
  · exact hne (hidx hu)
  · exact hne (ha hu)
  · exact hne (hb hu)
  · exact hne (hv hu)

/-- Settles O46: the decoder rejects the word before it looks at what follows. -/
theorem reservedFieldsFault : Obligations.ReservedFieldsFault := by
  intro s w rest op hidle hturn hpending hop hnonzero
  have hf : fetch (afterTurn s) = .reject (.reservedNonzero (fieldOp w) (1 + payloadWords op w)) :=
    (fetch_eq_decode hpending).trans (decode_of_reserved hop (reservedZero_eq_false hnonzero) rest)
  have hstream := length_stream_of_pending hpending
  refine ⟨_, step_of_blockStep hturn (blockStep_of_reserved hidle hf), ?_, ?_⟩
  · exact pos_lt_consume_pos (s := afterTurn s) (by simp only [afterTurn_pos, afterTurn_stream]; omega) (by omega)
  · rw [BitVec.ofNat_toNat]
    rfl

/-! ## A payload that is missing (R72, R205) -/

/-- A turn chosen for the block passes where the block has no step. -/
theorem step_of_blockStep_eq_none {s : State} (hturn : s.agenda.head? = some .block)
    (h : blockStep (afterTurn s) = none) : step s = .next (afterTurn s) := by
  cases hagenda : s.agenda with
  | nil => simp [hagenda] at hturn
  | cons t rest =>
    obtain rfl : t = .block := by simpa [hagenda] using hturn
    simp only [step, agentStep, hagenda, takeTurn, afterTurn_eq_of_cons hagenda, h]

/-- With no turn chosen, an idle block with no step and no activation enabled ends the run: stuck, with words ahead. -/
theorem step_eq_stuck {s : State} (hagenda : s.agenda = []) (hidle : s.fsm = .idle) (h : blockStep s = none)
    (hauto : autoEnabled s = false) (hpending : pending s ≠ []) : step s = .fault .stuck := by
  simp [step, agentStep, hagenda, defaultStep, h, otherStep, hidle, quietStep, hauto, hpending]

/-- Settles O47: the block has no step on such a word. -/
theorem missingPayloadIsStuck : Obligations.MissingPayloadIsStuck := by
  intro s w rest hidle hpending hop hidx hv hlen
  have hzero : reservedZero (opcodeUses .pmaWriteBuf) w = true := by simp [reservedZero, opcodeUses, hidx, hv]
  have hf : fetch s = .reject .payloadMissing :=
    (fetch_eq_decode hpending).trans (decode_of_missing (op := .pmaWriteBuf) hop hzero hlen)
  refine ⟨fun hturn => ?_, fun hagenda hauto => ?_⟩
  · exact step_of_blockStep_eq_none hturn (blockStep_of_missing (s := afterTurn s) hidle hf)
  · exact step_eq_stuck hagenda hidle (blockStep_of_missing hidle hf) hauto (by simp [hpending])

/-! ## Sample words (R81) -/

/-- Settles O42, each word decoded. -/
theorem sampleWordsDecode : Obligations.SampleWordsDecode :=
  ⟨by decide, by decide, by decide, by decide, by decide, by decide, by decide⟩

end Sys2Proof.Machine
end

section
/-! SUPPORT. The pseudo-instructions of R80 that clear one CTR flag: a command the host places and the machine runs
next, and what reading a register and writing back the word of R144 makes of it. -/

namespace Sys2Proof.Machine

/-! ## The register value (R28, R143, R144) -/

/-- A host write of the word that R144 makes from the value read: the toggle and plain bits reach the target, a CTR bit
is kept where the target has it, SETUP stays. -/
theorem epWriteValue_rmt_getLsbD (o t : Halfword) (j : Fin 16) : (epWriteValue o (rmt o t)).getLsbD j.val =
    if j.val = 15 ∨ j.val = 7 then o.getLsbD j.val && t.getLsbD j.val
    else if j.val = 11 then o.getLsbD j.val
    else t.getLsbD j.val := by
  rw [epWriteValue_getLsbD, rmt_getLsbD]
  fin_cases j <;> simp

/-- The target of R80, the value read with one CTR bit set and the other clear, only clears the other. -/
theorem epWriteValue_rmt_clear {set clear : Nat} {mask : Halfword}
    (h : (set = 7 ∧ clear = 15) ∨ (set = 15 ∧ clear = 7)) (hmask : ~~~bitMask clear = mask) (o : Halfword) :
    epWriteValue o (rmt o ((o ||| bitMask set) &&& ~~~bitMask clear)) = o &&& mask := by
  subst hmask
  refine BitVec.eq_of_getLsbD_eq fun j hj => ?_
  have hset : (bitMask set).getLsbD j = decide (j = set) := bitMask_getLsbD ⟨set, by omega⟩ ⟨j, hj⟩
  have hclear : (bitMask clear).getLsbD j = decide (j = clear) := bitMask_getLsbD ⟨clear, by omega⟩ ⟨j, hj⟩
  rw [epWriteValue_rmt_getLsbD o _ ⟨j, hj⟩]
  simp only [BitVec.getLsbD_and, BitVec.getLsbD_or, BitVec.getLsbD_not, hset, hclear]
  by_cases hctr : j = 15 ∨ j = 7
  · cases o.getLsbD j <;> simp [hctr]
  · have hset_ne : j ≠ set := by omega
    have hclear_ne : j ≠ clear := by omega
    simp [hctr, hj, hset_ne, hclear_ne]

/-! ## One command of a pseudo-instruction -/

/-- The state in which a command the host placed runs: its words stand at the end of the stream, consumed. -/
def placedAndConsumed (i : Instr) (s : State) : State :=
  { s with stream := s.stream ++ encode i, pos := s.pos + (encode i).length }

/-- With nothing ahead, a command the host places is the next the machine runs. -/
theorem step_placed {i : Instr} {s : State} (hi : i.wellFormed = true) (hidle : s.fsm = .idle) (hagenda : s.agenda = [])
    (hpos : s.pos = s.stream.length) :
    step { s with stream := s.stream ++ encode i } = exec i (placedAndConsumed i s) := by
  have hahead : decode ((s.stream ++ encode i).drop s.pos) = .instr i (encode i).length := by
    rw [hpos, List.drop_left]
    simpa using decodeInvertsEncode i [] hi
  have hconsumed : min (s.pos + (encode i).length) (s.stream ++ encode i).length = s.pos + (encode i).length := by
    rw [hpos, List.length_append, Nat.min_self]
  rw [stepRunsTheDecodedCommand { s with stream := s.stream ++ encode i } i _ hidle (.inl hagenda) hahead]
  simp only [hagenda, hconsumed, placedAndConsumed, List.tail_nil]

/-- The host is ready on an idle machine that has consumed the stream. -/
theorem hostReady_of_idle {s : State} (hidle : s.fsm = .idle) (hpos : s.pos = s.stream.length) :
    hostReady s = true := by
  simp [hostReady, pending, hidle, hpos]

/-- The host's turn and the machine's turn after it carry out one command. -/
theorem runPseudo_command {h : HostRun} {i : Instr} {t : State} (hi : i.wellFormed = true)
    (hidle : h.machine.fsm = .idle) (hagenda : h.machine.agenda = []) (hpos : h.machine.pos = h.machine.stream.length)
    (hnext : nextCommand h.pseudo h.placed h.machine = some i)
    (hexec : exec i (placedAndConsumed i h.machine) = .next t) (ts : List HostTurn) :
    runPseudo (.host :: .machine :: ts) h = runPseudo ts { h with placed := h.placed + 1, machine := t } := by
  have hplace : placeNext h =
      { h with placed := h.placed + 1, machine := { h.machine with stream := h.machine.stream ++ encode i } } := by
    simp [placeNext, hostReady_of_idle hidle hpos, hnext]
  simp [runPseudo, hostStep, hplace, step_placed hi hidle hagenda hpos, hexec]

/-! ## Read, modify, write (R80, R144) -/

/-- EP_READ of an endpoint (R141). -/
theorem exec_epRead {ep : Byte} {e : Fin 8} (he : ep.toNat = e.val) (s : State) :
    exec (.epRead ep) s = .next (respond (readEpr s e) s) :=
  congrArg Host.Outcome.next (withEndpoint_of_eq he _ s)

/-- EP_WRITE of an endpoint (R142). -/
theorem exec_epWrite {ep : Byte} {e : Fin 8} (he : ep.toNat = e.val) (v : Halfword) (s : State) :
    exec (.epWrite ep v) s = .next (hostWriteEpr e v s) :=
  congrArg Host.Outcome.next (withEndpoint_of_eq he _ s)

/-- The state after a read of endpoint `e`'s register and a write of the word of R144 toward `target` of its value. -/
def readModifyWritten (ep : Byte) (e : Fin 8) (target : Halfword → Halfword) (s : State) : State :=
  let v := readEpr s e
  hostWriteEpr e (rmt v (target v))
    (placedAndConsumed (.epWrite ep (rmt v (target v))) (respond v (placedAndConsumed (.epRead ep) s)))

/-- A pseudo-instruction of a read and a write made from the value read, carried out with no other step between. -/
theorem runPseudo_readModifyWrite {p : Pseudo} {ep : Byte} {e : Fin 8} {target : Halfword → Halfword} {s : State}
    (he : ep.toNat = e.val) (hidle : s.fsm = .idle) (hagenda : s.agenda = []) (hpos : s.pos = s.stream.length)
    (hread : ∀ t, nextCommand p 0 t = some (.epRead ep))
    (hwrite : ∀ t, nextCommand p 1 t = some (.epWrite ep (rmt t.resp (target t.resp)))) :
    runPseudo twoCommands (startPseudo p s) =
      .next { pseudo := p, placed := 2, machine := readModifyWritten ep e target s } := by
  have hpos' : s.pos + (encode (.epRead ep)).length = (s.stream ++ encode (.epRead ep)).length := by
    rw [hpos, List.length_append]
  rw [twoCommands, runPseudo_command rfl hidle hagenda hpos (hread s) (exec_epRead he _)]
  exact runPseudo_command rfl hidle hagenda hpos' (hwrite _) (exec_epWrite he _ _) []

theorem readModifyWritten_pos (ep : Byte) (e : Fin 8) (target : Halfword → Halfword) (s : State) :
    (readModifyWritten ep e target s).pos = s.pos + 2 := rfl

theorem readModifyWritten_stream_length (ep : Byte) (e : Fin 8) (target : Halfword → Halfword) (s : State) :
    (readModifyWritten ep e target s).stream.length = s.stream.length + 2 := by
  simp [readModifyWritten, placedAndConsumed, encode]

/-- The register read is written, and no other. -/
theorem readEpr_readModifyWritten (ep : Byte) (e i : Fin 8) (target : Halfword → Halfword) (s : State) :
    readEpr (readModifyWritten ep e target s) i =
      if i = e then epWriteValue (readEpr s e) (rmt (readEpr s e) (target (readEpr s e))) else readEpr s i :=
  readEpr_setEpr _ e i _

/-- What such a pseudo-instruction leaves, when the word it writes clears the bits outside `mask`. -/
theorem runPseudo_clears {p : Pseudo} {ep : Byte} {target : Halfword → Halfword} {mask : Halfword} {s : State}
    (h : ep.toNat < 8) (hidle : s.fsm = .idle) (hagenda : s.agenda = []) (hpos : s.pos = s.stream.length)
    (hread : ∀ t, nextCommand p 0 t = some (.epRead ep))
    (hwrite : ∀ t, nextCommand p 1 t = some (.epWrite ep (rmt t.resp (target t.resp))))
    (hend : ∀ t, nextCommand p 2 t = none) (hmask : ∀ v, epWriteValue v (rmt v (target v)) = v &&& mask) :
    ∃ r, runPseudo twoCommands (startPseudo p s) = .next r ∧ pseudoDone r = true ∧
      r.machine.epr[ep.toNat] = (s.epr[ep.toNat] &&& mask) ∧
      (∀ i : Fin 8, i.val ≠ ep.toNat → r.machine.epr[i.val] = s.epr[i.val]) ∧ r.machine.pos = s.pos + 2 ∧
      { r.machine with
        epr := s.epr, resp := s.resp, events := s.events, stream := s.stream, pos := s.pos } = s := by
  have hregs := fun i => readEpr_readModifyWritten ep ⟨ep.toNat, h⟩ i target s
  have hready : hostReady (readModifyWritten ep ⟨ep.toNat, h⟩ target s) = true :=
    hostReady_of_idle hidle (by rw [readModifyWritten_pos, readModifyWritten_stream_length, hpos])
  refine ⟨_, runPseudo_readModifyWrite (e := ⟨ep.toNat, h⟩) rfl hidle hagenda hpos hread hwrite, ?_, ?_, fun i hi => ?_,
    readModifyWritten_pos _ _ _ _, rfl⟩
  · simp [pseudoDone, hready, hend]
  · exact (hregs ⟨ep.toNat, h⟩).trans ((if_pos rfl).trans (hmask _))
  · exact (hregs i).trans (if_neg fun e => hi (congrArg Fin.val e))

/-- Settles O18: each pseudo-instruction writes the word that clears its one flag. -/
theorem clearCtrPseudosClearOneFlag : Obligations.ClearCtrPseudosClearOneFlag := by
  intro s ep h hidle hagenda hpos
  constructor
  · exact runPseudo_clears (target := fun v => (v ||| bitMask Config.eprCtrTx) &&& ~~~bitMask Config.eprCtrRx)
      h hidle hagenda hpos (fun _ => rfl) (fun _ => rfl) (fun _ => rfl)
      (epWriteValue_rmt_clear (.inl ⟨rfl, rfl⟩) (by decide))
  · exact runPseudo_clears (target := fun v => (v ||| bitMask Config.eprCtrRx) &&& ~~~bitMask Config.eprCtrTx)
      h hidle hagenda hpos (fun _ => rfl) (fun _ => rfl) (fun _ => rfl)
      (epWriteValue_rmt_clear (.inr ⟨rfl, rfl⟩) (by decide))

end Sys2Proof.Machine
end

section
/-! SUPPORT. The packet-memory raw access of 40_pma_access.md: the range checks as bounds on numbers, what a command
does on either side of its check, and the cells it leaves. -/

namespace Sys2Proof.Machine

/-! ## The range checks (R55, R102) -/

theorem cellInRange_eq_true {k : Halfword} : cellInRange k = true ↔ k.toNat < 512 := by
  simp [cellInRange, Config.pmaSize]

theorem cellInRange_eq_false {k : Halfword} : cellInRange k = false ↔ 512 ≤ k.toNat := by
  simp [cellInRange, Config.pmaSize]

theorem rangeInPma_eq_true {base : Halfword} {n : Nat} : rangeInPma base n = true ↔ base.toNat + n ≤ 512 := by
  simp [rangeInPma, Config.pmaSize]

theorem rangeInPma_eq_false {base : Halfword} {n : Nat} : rangeInPma base n = false ↔ 512 < base.toNat + n := by
  simp [rangeInPma, Config.pmaSize]

/-- Behind a check that passes, the body runs. -/
theorem withRange_of_true {ok : Bool} (h : ok = true) (info : Halfword) (body : State → State) (s : State) :
    withRange ok info body s = body s := if_pos h

/-- A check that fails leaves exactly the fault 0x32, whatever the body is (R201, R203). -/
theorem withRange_of_false {ok : Bool} (h : ok = false) (info : Halfword) (body : State → State) (s : State) :
    withRange ok info body s = faulted 0x32 .pmaRange info s := by
  subst h
  rfl

/-! ## The commands inside the packet memory (R100 to R102) -/

/-- PMA_GET of a cell (R100). -/
theorem exec_pmaGet {offset : Halfword} (h : offset.toNat < 512) (s : State) :
    exec (.pmaGet offset) s = .next (respond (readCell s offset.toNat) s) :=
  congrArg Host.Outcome.next (withRange_of_true (cellInRange_eq_true.mpr h) offset _ s)

/-- PMA_SET of a cell (R101). -/
theorem exec_pmaSet {offset : Halfword} (h : offset.toNat < 512) (value : Halfword) (s : State) :
    exec (.pmaSet offset value) s = .next (writeCell offset.toNat value s) :=
  congrArg Host.Outcome.next (withRange_of_true (cellInRange_eq_true.mpr h) offset _ s)

/-- PMA_WRITE_BUF of a range (R102). -/
theorem exec_pmaWriteBuf {base : Halfword} {data : List Halfword} (h : base.toNat + data.length ≤ 512) (s : State) :
    exec (.pmaWriteBuf base data) s = .next (writeCells base.toNat data s) :=
  congrArg Host.Outcome.next (withRange_of_true (rangeInPma_eq_true.mpr h) base _ s)

/-! ## The commands outside it (decisions D6 and D24) -/

theorem exec_pmaGet_of_ge {offset : Halfword} (h : 512 ≤ offset.toNat) (s : State) :
    exec (.pmaGet offset) s = .next (faulted 0x32 .pmaRange offset s) :=
  congrArg Host.Outcome.next (withRange_of_false (cellInRange_eq_false.mpr h) offset _ s)

theorem exec_pmaSet_of_ge {offset : Halfword} (h : 512 ≤ offset.toNat) (value : Halfword) (s : State) :
    exec (.pmaSet offset value) s = .next (faulted 0x32 .pmaRange offset s) :=
  congrArg Host.Outcome.next (withRange_of_false (cellInRange_eq_false.mpr h) offset _ s)

theorem exec_pmaWriteBuf_of_gt {base : Halfword} {data : List Halfword} (h : 512 < base.toNat + data.length)
    (s : State) : exec (.pmaWriteBuf base data) s = .next (faulted 0x32 .pmaRange base s) :=
  congrArg Host.Outcome.next (withRange_of_false (rangeInPma_eq_false.mpr h) base _ s)

/-! ## What a sequence of writes leaves in a cell (R102) -/

/-- Halfword `j` of the data stands in cell `b + j`. -/
theorem readCell_writeCells_add {b j : Nat} {d : List Halfword} (hfits : b + d.length ≤ 512) (hj : j < d.length)
    (s : State) : readCell (writeCells b d s) (b + j) = d[j] := by
  rw [readCell_writeCells d b s (b + j) hfits, dif_pos (by omega)]
  simp only [Nat.add_sub_cancel_left]

/-- A cell outside the written range holds what it held. -/
theorem readCell_writeCells_outside {b a : Nat} {d : List Halfword} (hfits : b + d.length ≤ 512)
    (ha : a < b ∨ b + d.length ≤ a) (s : State) : readCell (writeCells b d s) a = readCell s a := by
  rw [readCell_writeCells d b s a hfits, dif_neg (by omega)]

/-! ## The statements -/

/-- Settles O3: the check is on the whole range, so the writes are all done or none is. -/
theorem pmaWriteBufStoresTheRange : Obligations.PmaWriteBufStoresTheRange := by
  intro s base data
  refine ⟨fun hfits => ⟨_, exec_pmaWriteBuf hfits s, ?_, ?_, rfl⟩, fun h => exec_pmaWriteBuf_of_gt h s⟩
  · exact fun _ hj => readCell_writeCells_add hfits hj s
  · exact fun _ ha => readCell_writeCells_outside hfits ha s

/-- Settles O2: one cell write, behind the check of the offset. -/
theorem pmaSetStoresTheCell : Obligations.PmaSetStoresTheCell := by
  intro s offset value
  refine ⟨fun h => ⟨_, exec_pmaSet h value s, ?_, rfl⟩, fun h => exec_pmaSet_of_ge h value s⟩
  exact readCell_writeCell h value s

/-- Settles O1: the response is the only effect, behind the check of the offset. -/
theorem pmaGetReturnsTheCell : Obligations.PmaGetReturnsTheCell :=
  fun s _ => ⟨fun h => exec_pmaGet h s, fun h => exec_pmaGet_of_ge h s⟩

end Sys2Proof.Machine
end

section
/-! SUPPORT. The buffer descriptor table access of 41_bdt_access.md: the cell of a field as a number, what a getter and
a setter do on either side of the endpoint check, and the RX size with its check, its encoding and its capacity. -/

namespace Sys2Proof.Machine

/-! ## The fields of the table (R110) -/

/-- The cell of a field, computed from the IDX operand (R110). -/
theorem bdtCell_of_lt {ep : Byte} (h : ep.toNat < 8) (f : BdtField) :
    bdtCell ⟨ep.toNat, h⟩ f = 8 * ep.toNat + fieldOffset f :=
  congrArg (· + fieldOffset f) (Nat.mul_comm ep.toNat 8)

/-- A getter of an endpoint answers the whole cell (R111, R113, R114, R116). -/
theorem bdtGet_of_lt {ep : Byte} (h : ep.toNat < 8) (f : BdtField) (s : State) :
    bdtGet f ep s = responded (readCell s (8 * ep.toNat + fieldOffset f)) s := by
  rw [← bdtCell_of_lt h f]
  exact withEndpoint_of_eq (i := ⟨ep.toNat, h⟩) rfl _ s

/-- A setter of an endpoint is one cell write (R112, R115). -/
theorem bdtSet_of_lt {ep : Byte} (h : ep.toNat < 8) (f : BdtField) (v : Halfword) (s : State) :
    bdtSet f ep v s = writeCell (8 * ep.toNat + fieldOffset f) v s := by
  rw [← bdtCell_of_lt h f]
  exact withEndpoint_of_eq (i := ⟨ep.toNat, h⟩) rfl _ s

/-- An index that names no endpoint leaves exactly the fault 0x31, whatever the body is (R140, R201). -/
theorem withEndpoint_eq_faulted {ep : Byte} (h : 8 ≤ ep.toNat) (body : Fin 8 → State → State) (s : State) :
    withEndpoint ep body s = faulted 0x31 .epRange (ep.setWidth 16) s :=
  withEndpoint_of_ge h body s

theorem bdtGet_of_ge {ep : Byte} (h : 8 ≤ ep.toNat) (f : BdtField) (s : State) :
    bdtGet f ep s = faulted 0x31 .epRange (ep.setWidth 16) s := withEndpoint_eq_faulted h _ s

theorem bdtSet_of_ge {ep : Byte} (h : 8 ≤ ep.toNat) (f : BdtField) (v : Halfword) (s : State) :
    bdtSet f ep v s = faulted 0x31 .epRange (ep.setWidth 16) s := withEndpoint_eq_faulted h _ s

/-- A command that is one cell write stores the value in its cell and changes nothing else. -/
theorem stores_of_exec_eq_writeCell {i : Instr} {k : Nat} {v : Halfword} {s : State} (hk : k < 512)
    (h : exec i s = .next (writeCell k v s)) :
    ∃ t, exec i s = .next t ∧ (∀ a, readCell t a = if a = k then v else readCell s a) ∧ { t with pma := s.pma } = s :=
  ⟨_, h, readCell_writeCell hk v s, rfl⟩

/-! ## The RX size check (R117) -/

/-- The constraints in their order, in numbers (decision D25). -/
theorem rxSizeCheck_eq_ite (size : Halfword) : rxSizeCheck size =
    if 512 < size.toNat then some .rxSizeTooLarge
    else if 62 < size.toNat ∧ size.toNat % 32 ≠ 0 then some .rxSizeNotMult32
    else if size.toNat ≤ 62 ∧ size.toNat % 2 ≠ 0 then some .rxSizeOdd
    else none := rfl

/-- The sizes that pass: the even ones of block-of-2 mode and the multiples of 32 of block-of-32 mode. -/
theorem rxSizeCheck_eq_none {size : Halfword} : rxSizeCheck size = none ↔
    (size.toNat ≤ 62 ∧ size.toNat % 2 = 0) ∨ (62 < size.toNat ∧ size.toNat ≤ 512 ∧ size.toNat % 32 = 0) := by
  rw [rxSizeCheck_eq_ite]
  split_ifs <;> simp <;> omega

theorem rxSizeCheck_eq_tooLarge {size : Halfword} :
    rxSizeCheck size = some .rxSizeTooLarge ↔ 512 < size.toNat := by
  rw [rxSizeCheck_eq_ite]
  split_ifs <;> simp <;> omega

theorem rxSizeCheck_eq_notMult32 {size : Halfword} : rxSizeCheck size = some .rxSizeNotMult32 ↔
    62 < size.toNat ∧ size.toNat ≤ 512 ∧ size.toNat % 32 ≠ 0 := by
  rw [rxSizeCheck_eq_ite]
  split_ifs <;> simp <;> omega

theorem rxSizeCheck_eq_odd {size : Halfword} :
    rxSizeCheck size = some .rxSizeOdd ↔ size.toNat ≤ 62 ∧ size.toNat % 2 ≠ 0 := by
  rw [rxSizeCheck_eq_ite]
  split_ifs <;> simp <;> omega

/-- Behind a size check that passes, the body runs. -/
theorem withRxSize_of_none {size : Halfword} (h : rxSizeCheck size = none) (body : State → State) (s : State) :
    withRxSize size body s = body s := by
  simp only [withRxSize, h]

/-- A size check that fails leaves exactly its fault with the size, whatever the body is (R117, R203). -/
theorem withRxSize_of_some {size : Halfword} {c : FaultCode} (h : rxSizeCheck size = some c) (body : State → State)
    (s : State) : withRxSize size body s = faulted (faultByte c) c size s := by
  simp only [withRxSize, h]
  rfl

/-! ## The encoding and its capacity (R118, R121) -/

/-- Block-of-2 mode, in numbers (R118). -/
theorem encodeSize_of_le {size : Halfword} (h : size.toNat ≤ 62) :
    encodeSize size = BitVec.ofNat 16 (size.toNat / 2 * 1024) := by
  have hmode : ¬ Config.rxSmallMax < size.toNat := Nat.not_lt.mpr h
  rw [encodeSize, if_neg hmode, BitVec.shiftLeft_eq_mul_twoPow]
  exact (BitVec.ofNat_mul _ _).symm

/-- The block count stands below the mode bit, so setting the bit adds its value. -/
theorem blockCount_or_modeBit :
    ∀ k : Fin 16, (BitVec.ofNat 16 k.val <<< 10) ||| 0x8000 = BitVec.ofNat 16 (k.val * 1024 + 0x8000) := by decide

/-- Block-of-32 mode, in numbers (R118). -/
theorem encodeSize_of_gt {size : Halfword} (hmode : 62 < size.toNat) (hmax : size.toNat ≤ 512) :
    encodeSize size = BitVec.ofNat 16 ((size.toNat / 32 - 1) * 1024 + 0x8000) := by
  rw [encodeSize, if_pos hmode]
  exact blockCount_or_modeBit ⟨size.toNat / 32 - 1, by omega⟩

/-- Without the mode bit a 5-bit block count stands for blocks of 2. -/
theorem sizeCapacity_small : ∀ k : Fin 32, sizeCapacity (BitVec.ofNat 16 (k.val * 1024)) = k.val * 2 := by decide

/-- With the mode bit a 5-bit block count stands for one block of 32 more. -/
theorem sizeCapacity_large :
    ∀ k : Fin 32, sizeCapacity (BitVec.ofNat 16 (k.val * 1024 + 0x8000)) = (k.val + 1) * 32 := by decide

/-! ## The commands on an RX size (R119, R120) -/

/-- ENCODE_RX_SIZE of a size that passes (R119). -/
theorem exec_encodeRxSize {size : Halfword} (h : rxSizeCheck size = none) (s : State) :
    exec (.encodeRxSize size) s = .next (responded (encodeSize size) s) :=
  congrArg Host.Outcome.next (withRxSize_of_none h _ s)

/-- ENCODE_RX_SIZE of a size that does not (R117). -/
theorem exec_encodeRxSize_of_fault {size : Halfword} {c : FaultCode} (h : rxSizeCheck size = some c) (s : State) :
    exec (.encodeRxSize size) s = .next (faulted (faultByte c) c size s) :=
  congrArg Host.Outcome.next (withRxSize_of_some h _ s)

/-- Past the endpoint check, BDT_SET_RX_SIZE is the write of the RX count cell behind the size check (R120, R206). -/
theorem exec_bdtSetRxSize {ep : Byte} (hep : ep.toNat < 8) (size : Halfword) (s : State) :
    exec (.bdtSetRxSize ep size) s =
      .next (withRxSize size (writeCell (8 * ep.toNat + 6) (encodeSize size)) s) := by
  have hcell : bdtCell ⟨ep.toNat, hep⟩ .rxCount = 8 * ep.toNat + 6 := bdtCell_of_lt hep .rxCount
  rw [← hcell]
  exact congrArg Host.Outcome.next (withEndpoint_of_eq (i := ⟨ep.toNat, hep⟩) rfl _ s)

theorem exec_bdtSetRxSize_of_fault {ep : Byte} {size : Halfword} {c : FaultCode} (hep : ep.toNat < 8)
    (h : rxSizeCheck size = some c) (s : State) :
    exec (.bdtSetRxSize ep size) s = .next (faulted (faultByte c) c size s) :=
  (exec_bdtSetRxSize hep size s).trans (congrArg Host.Outcome.next (withRxSize_of_some h _ s))

/-- With both checks passed, BDT_SET_RX_SIZE stores the encoding in the whole cell (decision D25). -/
theorem bdtSetRxSize_stores {ep : Byte} {size : Halfword} (hep : ep.toNat < 8) (h : rxSizeCheck size = none)
    (s : State) :
    ∃ t, exec (.bdtSetRxSize ep size) s = .next t ∧
      (∀ a, readCell t a = if a = 8 * ep.toNat + 6 then encodeSize size else readCell s a) ∧
      { t with pma := s.pma } = s :=
  stores_of_exec_eq_writeCell (by omega)
    ((exec_bdtSetRxSize hep size s).trans (congrArg Host.Outcome.next (withRxSize_of_none h _ s)))

/-! ## The statements -/

/-- Settles O6: one cell write, behind the check of the endpoint. -/
theorem bdtSettersStoreTheField : Obligations.BdtSettersStoreTheField := by
  intro s ep addr
  refine ⟨fun h => ⟨?_, ?_⟩, fun h => ⟨?_, ?_⟩⟩
  · exact stores_of_exec_eq_writeCell (by omega) (congrArg Host.Outcome.next (bdtSet_of_lt h .txAddr addr s))
  · exact stores_of_exec_eq_writeCell (by omega) (congrArg Host.Outcome.next (bdtSet_of_lt h .rxAddr addr s))
  · exact congrArg Host.Outcome.next (bdtSet_of_ge h .txAddr addr s)
  · exact congrArg Host.Outcome.next (bdtSet_of_ge h .rxAddr addr s)

/-- Settles O7, by the outcome of the size check. -/
theorem encodeRxSizeReturnsTheEncoding : Obligations.EncodeRxSizeReturnsTheEncoding := by
  intro s size
  refine ⟨fun hle heven => ?_, fun hgt hmax hmult => ?_, fun h => ?_, fun hgt hmax hmult => ?_, fun hle hodd => ?_⟩
  · rw [← encodeSize_of_le hle]
    exact exec_encodeRxSize (rxSizeCheck_eq_none.mpr (.inl ⟨hle, heven⟩)) s
  · rw [← encodeSize_of_gt hgt hmax]
    exact exec_encodeRxSize (rxSizeCheck_eq_none.mpr (.inr ⟨hgt, hmax, hmult⟩)) s
  · exact exec_encodeRxSize_of_fault (rxSizeCheck_eq_tooLarge.mpr h) s
  · exact exec_encodeRxSize_of_fault (rxSizeCheck_eq_notMult32.mpr ⟨hgt, hmax, hmult⟩) s
  · exact exec_encodeRxSize_of_fault (rxSizeCheck_eq_odd.mpr ⟨hle, hodd⟩) s

/-- Settles O8: the endpoint check first, then the outcome of the size check. -/
theorem bdtSetRxSizeStoresTheEncoding : Obligations.BdtSetRxSizeStoresTheEncoding := by
  intro s ep size
  refine ⟨fun hep hle heven => ?_, fun hep hgt hmax hmult => ?_, fun hep => ?_, fun hep h => ?_,
    fun hep hgt hmax hmult => ?_, fun hep hle hodd => ?_⟩
  · rw [← encodeSize_of_le hle]
    exact bdtSetRxSize_stores hep (rxSizeCheck_eq_none.mpr (.inl ⟨hle, heven⟩)) s
  · rw [← encodeSize_of_gt hgt hmax]
    exact bdtSetRxSize_stores hep (rxSizeCheck_eq_none.mpr (.inr ⟨hgt, hmax, hmult⟩)) s
  · exact congrArg Host.Outcome.next (withEndpoint_eq_faulted hep _ s)
  · exact exec_bdtSetRxSize_of_fault hep (rxSizeCheck_eq_tooLarge.mpr h) s
  · exact exec_bdtSetRxSize_of_fault hep (rxSizeCheck_eq_notMult32.mpr ⟨hgt, hmax, hmult⟩) s
  · exact exec_bdtSetRxSize_of_fault hep (rxSizeCheck_eq_odd.mpr ⟨hle, hodd⟩) s

/-- Settles O9: in each mode the capacity is the block count times the block, and the size is a multiple of it. -/
theorem rxSizeCapacityInvertsTheEncoding : Obligations.RxSizeCapacityInvertsTheEncoding := by
  intro size hcheck
  rcases rxSizeCheck_eq_none.mp hcheck with ⟨hle, heven⟩ | ⟨hgt, hmax, hmult⟩
  · calc sizeCapacity (encodeSize size)
        = sizeCapacity (BitVec.ofNat 16 (size.toNat / 2 * 1024)) := by rw [encodeSize_of_le hle]
      _ = size.toNat / 2 * 2 := sizeCapacity_small ⟨size.toNat / 2, by omega⟩
      _ = size.toNat := by omega
  · calc sizeCapacity (encodeSize size)
        = sizeCapacity (BitVec.ofNat 16 ((size.toNat / 32 - 1) * 1024 + 0x8000)) := by
          rw [encodeSize_of_gt hgt hmax]
      _ = (size.toNat / 32 - 1 + 1) * 32 := sizeCapacity_large ⟨size.toNat / 32 - 1, by omega⟩
      _ = size.toNat := by omega

/-- Settles O4: the response is the only effect, behind the check of the endpoint. -/
theorem bdtAddressGettersReturnTheField : Obligations.BdtAddressGettersReturnTheField := by
  intro s ep
  refine ⟨fun h => ⟨?_, ?_⟩, fun h => ⟨?_, ?_⟩⟩
  · exact congrArg Host.Outcome.next (bdtGet_of_lt h .txAddr s)
  · exact congrArg Host.Outcome.next (bdtGet_of_lt h .rxAddr s)
  · exact congrArg Host.Outcome.next (bdtGet_of_ge h .txAddr s)
  · exact congrArg Host.Outcome.next (bdtGet_of_ge h .rxAddr s)

/-- Settles O5: as O4, on the count fields. -/
theorem bdtCountGettersReturnTheWholeCell : Obligations.BdtCountGettersReturnTheWholeCell := by
  intro s ep
  refine ⟨fun h => ⟨?_, ?_⟩, fun h => ⟨?_, ?_⟩⟩
  · exact congrArg Host.Outcome.next (bdtGet_of_lt h .txCount s)
  · exact congrArg Host.Outcome.next (bdtGet_of_lt h .rxCount s)
  · exact congrArg Host.Outcome.next (bdtGet_of_ge h .txCount s)
  · exact congrArg Host.Outcome.next (bdtGet_of_ge h .rxCount s)

end Sys2Proof.Machine
end

section
/-! SUPPORT. The packet-memory allocator of 42_allocator.md: the scan as the least of the allocated addresses, what
PMA_ALLOC does on either side of its check, and what a sequence of stored allocations leaves. -/

namespace Sys2Proof.Machine

/-! ## The scan (R130) -/

/-- The nonzero values of the 16 address fields, which the scan takes the least of (R130). -/
def allocatedAddresses (s : State) : List Nat :=
  (addressCells.map fun k => (readCell s k).toNat).filter (· ≠ 0)

theorem lowestAllocated_eq_min (s : State) : lowestAllocated s = (allocatedAddresses s).min?.getD 512 := rfl

theorem mem_allocatedAddresses {s : State} {a : Nat} :
    a ∈ allocatedAddresses s ↔ (∃ k ∈ addressCells, (readCell s k).toNat = a) ∧ a ≠ 0 := by
  simp [allocatedAddresses]

theorem forall_mem_allocatedAddresses {s : State} {p : Nat → Prop} :
    (∀ a ∈ allocatedAddresses s, p a) ↔ ∀ k ∈ addressCells, (readCell s k).toNat ≠ 0 → p (readCell s k).toNat := by
  simp [allocatedAddresses]

theorem allocatedAddresses_eq_nil {s : State} :
    allocatedAddresses s = [] ↔ ∀ k ∈ addressCells, (readCell s k).toNat = 0 := by
  simp [allocatedAddresses]

/-- The address fields as numbers: TX at cell `8e`, RX at cell `8e + 4` (R110, R130). -/
theorem mem_addressCells_iff {k : Nat} :
    k ∈ addressCells ↔ ∃ (e : Fin 8) (rx : Bool), k = 8 * e.val + if rx then 4 else 0 := by
  rw [mem_addressCells]
  simp [bdtCell, fieldOffset, Nat.mul_comm]

theorem forall_mem_addressCells {p : Nat → Prop} :
    (∀ k ∈ addressCells, p k) ↔ ∀ (e : Fin 8) (rx : Bool), p (8 * e.val + if rx then 4 else 0) := by
  refine ⟨fun h e rx => h _ (mem_addressCells_iff.mpr ⟨e, rx, rfl⟩), fun h k hk => ?_⟩
  obtain ⟨e, rx, rfl⟩ := mem_addressCells_iff.mp hk
  exact h e rx

theorem exists_mem_addressCells {p : Nat → Prop} :
    (∃ k ∈ addressCells, p k) ↔ ∃ (e : Fin 8) (rx : Bool), p (8 * e.val + if rx then 4 else 0) := by
  refine ⟨fun ⟨k, hk, hp⟩ => ?_, fun ⟨e, rx, hp⟩ => ⟨_, mem_addressCells_iff.mpr ⟨e, rx, rfl⟩, hp⟩⟩
  obtain ⟨e, rx, rfl⟩ := mem_addressCells_iff.mp hk
  exact ⟨e, rx, hp⟩

/-- What the scan answers: 512 when nothing is allocated, else the least allocated address. -/
theorem lowestAllocated_eq_iff {s : State} {low : Nat} :
    lowestAllocated s = low ↔ (allocatedAddresses s = [] ∧ low = 512) ∨
      (low ∈ allocatedAddresses s ∧ ∀ a ∈ allocatedAddresses s, low ≤ a) := by
  rw [lowestAllocated_eq_min]
  cases hmin : (allocatedAddresses s).min? with
  | none =>
    have hnil := List.min?_eq_none_iff.mp hmin
    simp [hnil, eq_comm]
  | some m =>
    obtain ⟨hmem, hle⟩ := List.min?_eq_some_iff.mp hmin
    constructor
    · rintro rfl
      exact .inr ⟨hmem, hle⟩
    · rintro (⟨hnil, -⟩ | ⟨hlow, hlow_le⟩)
      · simp [hnil] at hmem
      · exact Nat.le_antisymm (hle low hlow) (hlow_le m hmem)

/-- The model's scan computes the address R130 describes. -/
theorem isLowestAllocated_iff {s : State} {low : Nat} : isLowestAllocated s low ↔ lowestAllocated s = low := by
  rw [lowestAllocated_eq_iff, allocatedAddresses_eq_nil, forall_mem_allocatedAddresses, mem_allocatedAddresses,
    and_assoc, forall_mem_addressCells, exists_mem_addressCells, forall_mem_addressCells]
  rfl

/-- With all 16 address fields 0 the scan answers PMA_SIZE. -/
theorem lowestAllocated_of_fields_zero {s : State}
    (h : ∀ e : Fin 8, readCell s (8 * e.val) = 0 ∧ readCell s (8 * e.val + 4) = 0) : lowestAllocated s = 512 := by
  refine isLowestAllocated_iff.mp (.inl ⟨fun e rx => ?_, rfl⟩)
  obtain ⟨htx, hrx⟩ := h e
  cases rx <;> simp [htx, hrx]

/-- The scan answers a 16-bit value. -/
theorem lowestAllocated_lt (s : State) : lowestAllocated s < 65536 := by
  rcases lowestAllocated_eq_iff.mp (rfl : lowestAllocated s = _) with ⟨-, h⟩ | ⟨hmem, -⟩
  · omega
  · obtain ⟨⟨k, -, hk⟩, -⟩ := mem_allocatedAddresses.mp hmem
    exact hk ▸ (readCell s k).isLt

/-- The scan answers no more than any allocated address. -/
theorem lowestAllocated_le {s : State} {a : Nat} (ha : a ∈ allocatedAddresses s) : lowestAllocated s ≤ a := by
  rcases lowestAllocated_eq_iff.mp (rfl : lowestAllocated s = _) with ⟨hnil, -⟩ | ⟨-, hle⟩
  · simp [hnil] at ha
  · exact hle a ha

/-- The scan depends on the packet memory and the draw counter alone. -/
theorem lowestAllocated_congr {s t : State} (hp : t.pma = s.pma) (hd : t.drawEpoch = s.drawEpoch) :
    lowestAllocated t = lowestAllocated s := by
  simp only [lowestAllocated, readCell_congr hp hd]

/-- A response is no input of the scan. -/
theorem lowestAllocated_responded (v : Halfword) (s : State) : lowestAllocated (responded v s) = lowestAllocated s :=
  lowestAllocated_congr rfl rfl

/-- An address stored in an address field at or below all the others becomes the lowest, whatever the field held. -/
theorem lowestAllocated_writeCell {k : Nat} {v : Halfword} {s : State} (hk : k ∈ addressCells) (hv : v.toNat ≠ 0)
    (hle : v.toNat ≤ lowestAllocated s) : lowestAllocated (writeCell k v s) = v.toNat := by
  have hread := readCell_writeCell (Nat.lt_trans (addressCells_lt k hk) (by decide)) v s
  refine lowestAllocated_eq_iff.mpr (.inr ⟨?_, fun a ha => ?_⟩)
  · exact mem_allocatedAddresses.mpr ⟨⟨k, hk, by simp [hread]⟩, hv⟩
  · obtain ⟨⟨k', hk', rfl⟩, hne⟩ := mem_allocatedAddresses.mp ha
    rw [hread] at hne ⊢
    by_cases heq : k' = k
    · rw [if_pos heq]
    · rw [if_neg heq] at hne ⊢
      exact Nat.le_trans hle (lowestAllocated_le (mem_allocatedAddresses.mpr ⟨⟨k', hk', rfl⟩, hne⟩))

/-! ## What a response and a fault leave in FSM (R36, R203) -/

@[simp] theorem responded_fsm (v : Halfword) (s : State) : (responded v s).fsm = s.fsm := rfl

@[simp] theorem faulted_fsm (cause : Byte) (code : FaultCode) (info : Halfword) (s : State) :
    (faulted cause code info s).fsm = .fault := rfl

/-! ## PMA_ALLOC on either side of its check (R131) -/

theorem exec_pmaAlloc {size : Halfword} {s : State} (h : size.toNat + 64 ≤ lowestAllocated s) :
    exec (.pmaAlloc size) s = .next (responded (BitVec.ofNat 16 (lowestAllocated s - size.toNat)) s) :=
  congrArg Host.Outcome.next (if_neg (by simp only [Config.bdtEnd]; omega))

theorem exec_pmaAlloc_of_lt {size : Halfword} {s : State} (h : lowestAllocated s < size.toNat + 64) :
    exec (.pmaAlloc size) s = .next (faulted 0x14 .allocExhausted size s) :=
  congrArg Host.Outcome.next (if_pos (by simp only [Config.bdtEnd]; omega))

/-- No wrap: the address PMA_ALLOC returns is the difference as a number (R8). -/
theorem toNat_allocatedAddress (s : State) (size : Halfword) :
    (BitVec.ofNat 16 (lowestAllocated s - size.toNat)).toNat = lowestAllocated s - size.toNat := by
  have := lowestAllocated_lt s
  rw [BitVec.toNat_ofNat, Nat.mod_eq_of_lt (by omega)]

/-! ## A stored allocation (R133) -/

theorem requestCell_mem_addressCells (r : AllocRequest) : requestCell r ∈ addressCells := by
  refine mem_addressCells.mpr ⟨r.ep, ?_⟩
  unfold requestCell requestField
  cases r.rx
  · exact .inl rfl
  · exact .inr rfl

/-- The store of a request is one cell write and cannot fault: the field is of an endpoint. -/
theorem exec_storeCommand (r : AllocRequest) (addr : Halfword) (s : State) :
    exec (storeCommand r addr) s = .next (writeCell (requestCell r) addr s) := by
  have hep : (BitVec.ofNat 8 r.ep.val).toNat = r.ep.val := by
    rw [BitVec.toNat_ofNat, Nat.mod_eq_of_lt (by omega)]
  unfold storeCommand requestCell requestField
  cases r.rx <;> exact congrArg Host.Outcome.next (withEndpoint_of_eq hep _ s)

/-- The state after an allocation that succeeds and the store of its result. -/
def allocatedAndStored (r : AllocRequest) (s : State) : State :=
  let addr := BitVec.ofNat 16 (lowestAllocated s - r.size.toNat)
  writeCell (requestCell r) addr (responded addr s)

/-- An allocation is stored exactly when the machine runs and the size leaves the table free. -/
theorem allocAndStore_eq (r : AllocRequest) (s : State) :
    allocAndStore r s = if s.fsm ≠ .fault ∧ r.size.toNat + 64 ≤ lowestAllocated s then
      some (lowestAllocated s - r.size.toNat, allocatedAndStored r s) else none := by
  unfold allocAndStore
  by_cases hfits : r.size.toNat + 64 ≤ lowestAllocated s
  · simp only [exec_pmaAlloc hfits, exec_storeCommand, responded_fsm]
    by_cases hfsm : s.fsm = .fault
    · rw [if_pos hfsm, if_neg fun h => h.1 hfsm]
    · rw [if_neg hfsm, if_pos ⟨hfsm, hfits⟩]
      exact congrArg (fun a => some (a, allocatedAndStored r s)) (toNat_allocatedAddress s r.size)
  · simp only [exec_pmaAlloc_of_lt (Nat.lt_of_not_le hfits), faulted_fsm]
    rw [if_pos trivial, if_neg fun h => hfits h.2]

/-- A stored address is the new lowest one: `a_i` of R133. -/
theorem lowestAllocated_allocatedAndStored {r : AllocRequest} {s : State}
    (h : r.size.toNat + 64 ≤ lowestAllocated s) :
    lowestAllocated (allocatedAndStored r s) = lowestAllocated s - r.size.toNat := by
  have haddr := toNat_allocatedAddress s r.size
  rw [allocatedAndStored, lowestAllocated_writeCell (requestCell_mem_addressCells r), haddr]
  · omega
  · rw [haddr, lowestAllocated_responded]
    omega

/-! ## A sequence of stored allocations (R133, R134) -/

theorem allocSequence_cons_eq_some {r : AllocRequest} {rs : List AllocRequest} {s u : State}
    {buffers : List (Nat × Nat)} :
    allocSequence (r :: rs) s = some (buffers, u) ↔ s.fsm ≠ .fault ∧ r.size.toNat + 64 ≤ lowestAllocated s ∧
      ∃ rest, allocSequence rs (allocatedAndStored r s) = some (rest, u) ∧
        buffers = (lowestAllocated s - r.size.toNat, r.size.toNat) :: rest := by
  rw [allocSequence, allocAndStore_eq]
  by_cases h : s.fsm ≠ .fault ∧ r.size.toNat + 64 ≤ lowestAllocated s
  · obtain ⟨hfsm, hfits⟩ := h
    simp only [if_pos (And.intro hfsm hfits)]
    rcases allocSequence rs (allocatedAndStored r s) with _ | ⟨bufs, v⟩
    · simp
    · simp [hfsm, hfits, and_comm, eq_comm (a := buffers)]
  · rw [if_neg h]
    exact iff_of_false nofun fun ⟨hfsm, hfits, _⟩ => h ⟨hfsm, hfits⟩

/-- Buffers laid out downwards from `top` inside the arena: each ends where the one before begins (R133). -/
def StackedBelow : Nat → List (Nat × Nat) → Prop
  | _, [] => True
  | top, b :: rest => b.1 + b.2 = top ∧ 64 ≤ b.1 ∧ StackedBelow b.1 rest

theorem StackedBelow.end_eq {buffers : List (Nat × Nat)} {top : Nat} (h : StackedBelow top buffers) (j : Nat)
    (hj : j < buffers.length) : (top :: buffers.map Prod.fst)[j]? = some (buffers[j].1 + buffers[j].2) := by
  induction buffers generalizing top j with
  | nil => cases hj
  | cons b rest ih =>
    obtain ⟨hend, -, hrest⟩ := h
    cases j with
    | zero => simp [hend]
    | succ j => simpa using ih hrest j (by simpa using hj)

theorem StackedBelow.mem {buffers : List (Nat × Nat)} {top : Nat} (h : StackedBelow top buffers) :
    ∀ b ∈ buffers, 64 ≤ b.1 ∧ b.1 + b.2 ≤ top := by
  induction buffers generalizing top with
  | nil => simp
  | cons b rest ih =>
    obtain ⟨hend, hlow, hrest⟩ := h
    intro c hc
    rcases List.mem_cons.mp hc with rfl | hc
    · omega
    · have := ih hrest c hc
      omega

theorem StackedBelow.pairwise {buffers : List (Nat × Nat)} {top : Nat} (h : StackedBelow top buffers) :
    buffers.Pairwise (fun earlier later => later.1 + later.2 ≤ earlier.1) := by
  induction buffers generalizing top with
  | nil => exact .nil
  | cons b rest ih =>
    obtain ⟨-, -, hrest⟩ := h
    exact .cons (fun c hc => (hrest.mem c hc).2) (ih hrest)

/-- The invariant of R133: the lowest address is the last one stored, so each buffer ends there. -/
theorem allocSequence_stackedBelow {requests : List AllocRequest} {s u : State} {buffers : List (Nat × Nat)}
    (h : allocSequence requests s = some (buffers, u)) :
    buffers.map Prod.snd = requests.map (fun r => r.size.toNat) ∧ StackedBelow (lowestAllocated s) buffers := by
  induction requests generalizing s buffers with
  | nil =>
    obtain ⟨rfl, -⟩ : [] = buffers ∧ s = u := by simpa [allocSequence] using h
    exact ⟨rfl, trivial⟩
  | cons r rs ih =>
    obtain ⟨-, hfits, rest, hrest, rfl⟩ := allocSequence_cons_eq_some.mp h
    obtain ⟨hsizes, hstacked⟩ := ih hrest
    rw [lowestAllocated_allocatedAndStored hfits] at hstacked
    exact ⟨by simp [hsizes], Nat.sub_add_cancel (by omega), Nat.le_sub_of_add_le (by omega), hstacked⟩

/-- Requests that fit between the table and the lowest address all succeed. -/
theorem allocSequence_of_fits {requests : List AllocRequest} {s : State} (hfsm : s.fsm ≠ .fault)
    (hfits : (requests.map fun r => r.size.toNat).sum + 64 ≤ lowestAllocated s) :
    ∃ buffers u, allocSequence requests s = some (buffers, u) ∧
      { u with pma := s.pma, resp := s.resp, events := s.events } = s := by
  induction requests generalizing s with
  | nil => exact ⟨[], s, rfl, rfl⟩
  | cons r rs ih =>
    rw [List.map_cons, List.sum_cons] at hfits
    have hr : r.size.toNat + 64 ≤ lowestAllocated s := by omega
    obtain ⟨rest, u, hrest, hframe⟩ := ih (s := allocatedAndStored r s) hfsm
      (by rw [lowestAllocated_allocatedAndStored hr]; omega)
    refine ⟨_, u, allocSequence_cons_eq_some.mpr ⟨hfsm, hr, rest, hrest, rfl⟩, ?_⟩
    exact congrArg (fun t : State => { t with pma := s.pma, resp := s.resp, events := s.events }) hframe

/-! ## The statements -/

/-- Settles O12, by induction on the requests. That the fields are distinct is not needed: whichever field takes it,
the address stored last is the lowest. -/
theorem storedAllocationsAreDisjoint : Obligations.StoredAllocationsAreDisjoint := by
  intro requests s u buffers hzero _ h
  obtain ⟨hsizes, hstacked⟩ := allocSequence_stackedBelow h
  rw [lowestAllocated_of_fields_zero hzero] at hstacked
  exact ⟨hsizes, hstacked.end_eq, hstacked.mem, hstacked.pairwise⟩

/-- Settles O13, by induction on the requests: every one leaves room for the rest. -/
theorem fittingAllocationsSucceed : Obligations.FittingAllocationsSucceed := by
  intro requests s hidle hzero _ hsum
  obtain ⟨buffers, u, h, hframe⟩ := allocSequence_of_fits (requests := requests) (s := s) (by simp [hidle])
    (by rw [lowestAllocated_of_fields_zero hzero]; omega)
  obtain ⟨hsizes, -⟩ := allocSequence_stackedBelow h
  exact ⟨buffers, u, h, by simpa using congrArg List.length hsizes, hframe⟩

/-- Settles O10: the scan computes R130's address, and the check is on integers. -/
theorem pmaAllocReturnsLowMinusSize : Obligations.PmaAllocReturnsLowMinusSize := by
  refine fun s size => ⟨⟨lowestAllocated s, isLowestAllocated_iff.mpr rfl⟩, fun low hlow => ?_⟩
  obtain rfl := isLowestAllocated_iff.mp hlow
  exact ⟨exec_pmaAlloc, exec_pmaAlloc_of_lt⟩

/-- Settles O11: RESP and the history are no input of the scan. -/
theorem pmaAllocRecordsNothing : Obligations.PmaAllocRecordsNothing := by
  intro s t size h hrun
  by_cases hfits : size.toNat + 64 ≤ lowestAllocated s
  · obtain rfl := Host.Outcome.next.inj ((exec_pmaAlloc hfits).symm.trans h)
    have hlow := lowestAllocated_responded (BitVec.ofNat 16 (lowestAllocated s - size.toNat)) s
    refine ⟨rfl, _, exec_pmaAlloc (hlow.symm ▸ hfits), ?_, hrun⟩
    exact congrArg (fun low => BitVec.ofNat 16 (low - size.toNat)) hlow
  · obtain rfl := Host.Outcome.next.inj ((exec_pmaAlloc_of_lt (by omega)).symm.trans h)
    exact absurd (faulted_fsm ..) hrun

end Sys2Proof.Machine
end

section
/-! SUPPORT. The endpoint register file of 43_endpoint_regfile.md: the endpoint check of every command that uses IDX,
what a write leaves in a register, bit by bit, and the cells EP_RESET_ALL leaves. -/

namespace Sys2Proof.Machine

/-! ## The endpoint check (R140) -/

/-- A command that uses IDX does all its work behind the endpoint check. -/
theorem exec_eq_withEndpoint {i : Instr} {ep : Byte} (h : endpointOperand i = some ep) :
    ∃ body : Fin 8 → State → State, ∀ s, exec i s = .next (withEndpoint ep body s) := by
  cases i with
  | bdtTxAddr | bdtSetTxAddr | bdtTxCount | bdtRxAddr | bdtSetRxAddr | bdtRxCount | bdtSetRxSize | epRead | epWrite =>
    obtain rfl := Option.some.inj h
    exact ⟨_, fun _ => rfl⟩
  | pmaGet | pmaSet | pmaWriteBuf | encodeRxSize | pmaAlloc | epResetAll | irqDispatch => cases h

/-- So an index that names no endpoint leaves exactly the fault EP_RANGE, whatever the command is. -/
theorem exec_of_endpointOperand_ge {i : Instr} {ep : Byte} (h : endpointOperand i = some ep) (hep : 8 ≤ ep.toNat)
    (s : State) : exec i s = .next (faulted 0x31 .epRange (ep.setWidth 16) s) := by
  obtain ⟨body, hbody⟩ := exec_eq_withEndpoint h
  rw [hbody, withEndpoint_eq_faulted hep]

/-! ## Writing a register (R142, R144) -/

/-- The host's write leaves the written word, applied kind by kind, in its register, and every other register alone. -/
theorem readEpr_hostWriteEpr (i j : Fin 8) (w : Halfword) (s : State) :
    readEpr (hostWriteEpr i w s) j = if j = i then epWriteValue (readEpr s i) w else readEpr s j :=
  readEpr_setEpr s i j _

/-- The word of R144, made from the value `o` read, written over a live value: each toggle bit flips by the difference
of `o` and the target. -/
theorem epWriteValue_rmt_live_getLsbD (o live t : Halfword) (j : Fin 16) :
    (epWriteValue live (rmt o t)).getLsbD j.val =
      if j.val = 15 ∨ j.val = 7 then live.getLsbD j.val && t.getLsbD j.val
      else if j.val = 14 ∨ j.val = 13 ∨ j.val = 12 ∨ j.val = 6 ∨ j.val = 5 ∨ j.val = 4 then
        xor (live.getLsbD j.val) (xor (o.getLsbD j.val) (t.getLsbD j.val))
      else if j.val = 11 then live.getLsbD j.val
      else t.getLsbD j.val := by
  rw [epWriteValue_getLsbD, rmt_getLsbD]
  fin_cases j <;> simp

/-! ## The statements -/

/-- Settles O15: the register written takes the word bit by bit, behind the endpoint check. -/
theorem epWriteAppliesTheWriteKinds : Obligations.EpWriteAppliesTheWriteKinds := by
  intro s ep w
  refine ⟨fun h => ?_, fun h => exec_of_endpointOperand_ge rfl h s⟩
  have hread (i : Fin 8) := readEpr_hostWriteEpr ⟨ep.toNat, h⟩ i w s
  refine ⟨_, exec_epWrite (e := ⟨ep.toNat, h⟩) rfl w s, fun j => ?_, fun i hi => ?_, rfl⟩
  · have hwritten := (hread ⟨ep.toNat, h⟩).trans (if_pos rfl)
    exact (congrArg (·.getLsbD j.val) hwritten).trans (epWriteValue_getLsbD _ w j)
  · exact (hread i).trans (if_neg fun heq => hi (congrArg Fin.val heq))

/-- Settles O16: with the live value the one read, the two differences of a toggle bit cancel. -/
theorem readModifyToggleReachesTheTarget : Obligations.ReadModifyToggleReachesTheTarget := by
  intro o live t j
  refine ⟨epWriteValue_rmt_live_getLsbD o live t j, fun hrx htx hsetup => ?_⟩
  rw [epWriteValue_rmt_getLsbD, if_neg (not_or.mpr ⟨hrx, htx⟩), if_neg hsetup]

/-- Settles O17: `ResetAll` leaves 0 in exactly the address fields of R130, the cells `8e` and `8e + 4`. -/
theorem epResetAllUnconfigures : Obligations.EpResetAllUnconfigures := by
  intro s
  have hfields (e : Fin 8) (rx : Bool) : readCell (resetAll s) (8 * e.val + if rx then 4 else 0) = 0 := by
    rw [readCell_resetAll, if_pos (mem_addressCells_iff.mpr ⟨e, rx, rfl⟩)]
  refine ⟨resetAll s, rfl, readEpr_resetAll s, fun e => ⟨hfields e false, hfields e true⟩, fun a ha => ?_, rfl⟩
  have hfree : a ∉ addressCells := by
    rw [mem_addressCells_iff]
    rintro ⟨e, _ | _, h⟩
    · exact (ha e).1 h
    · exact (ha e).2 h
  rw [readCell_resetAll, if_neg hfree]

/-- Settles O19: the endpoint check comes before the command's other checks and effects. -/
theorem endpointIndexIsChecked : Obligations.EndpointIndexIsChecked := by
  intro s i ep h hep
  rw [BitVec.ofNat_toNat]
  exact exec_of_endpointOperand_ge h hep s

/-- Settles O14: the response is the only effect, behind the endpoint check. -/
theorem epReadReturnsTheRegister : Obligations.EpReadReturnsTheRegister :=
  fun s ep => ⟨fun h => exec_epRead (e := ⟨ep.toNat, h⟩) rfl s, fun h => exec_of_endpointOperand_ge rfl h s⟩

end Sys2Proof.Machine
end

section
/-! SUPPORT. The dispatcher of 44_dispatcher.md, step by step: the flag an activation selects (R163), what each state's
step does (R162 to R172), and a dispatch run to its end with no other agent's step between. -/

namespace Sys2Proof.Machine

/-! ## The selection (R163) -/

/-- A search of a list looks at its head first. -/
theorem find?_cons_eq_ite {α : Type} (p : α → Bool) (a : α) (as : List α) :
    (a :: as).find? p = if p a then some a else as.find? p := by
  cases h : p a <;> simp [h]

/-- `select` is a search of the priority order. -/
theorem select_eq_find? (v : Halfword) : select v = priorityOrder.find? (flagSet v) := by
  simp only [select, priorityOrder, find?_cons_eq_ite, List.find?_nil]

/-- `select` in the bit positions of R31. -/
theorem select_eq_ite (v : Halfword) : select v =
    if v.getLsbD 10 then some .reset else if v.getLsbD 15 then some .ctr else if v.getLsbD 9 then some .sof
    else if v.getLsbD 12 then some .wkup else if v.getLsbD 11 then some .susp else if v.getLsbD 13 then some .err
    else none := rfl

theorem select_of_reset {v : Halfword} (h : flagSet v .reset = true) : select v = some .reset := if_pos h

theorem select_of_ctr {v : Halfword} (hreset : flagSet v .reset = false) (hctr : flagSet v .ctr = true) :
    select v = some .ctr := by simp [select, hreset, hctr]

/-- Settles O20: what a search of a list finds, and when it finds nothing. -/
theorem selectFollowsThePriorityOrder : Obligations.SelectFollowsThePriorityOrder := by
  intro v
  rw [select_eq_find?]
  refine ⟨fun f => ?_, by simp⟩
  rw [List.find?_eq_some_iff_append]
  simp only [Bool.not_eq_true', ← exists_and_left, and_left_comm]

/-! ## Activation (R161, R162, R171) -/

theorem activate_of_reset {s : State} (h : select s.istr = some .reset) (ctx : Ctx) :
    activate ctx s = latch ctx .resetAct s := by simp only [activate, h]

theorem activate_of_ctr {s : State} (h : select s.istr = some .ctr) (ctx : Ctx) :
    activate ctx s = latch ctx .ctrEval s := by simp only [activate, h]

/-- The four other flags are cleared with no step between. -/
theorem activate_of_other {s : State} {f : IstrFlag} (h : select s.istr = some f) (hreset : f ≠ .reset)
    (hctr : f ≠ .ctr) (ctx : Ctx) : activate ctx s = toClear (flagBit f) (latch ctx .clear s) := by
  rcases activate_cases ctx s with ⟨hsel, _⟩ | ⟨hsel, _⟩ | ⟨g, hsel, _, _, e⟩ | ⟨hsel, _⟩ <;>
    cases h.symm.trans hsel
  · exact absurd rfl hreset
  · exact absurd rfl hctr
  · exact e

theorem activate_of_none {s : State} (h : select s.istr = none) (ctx : Ctx) :
    activate ctx s = faulted 0x22 .noRecognizedFlag s.istr s := by
  simp only [activate, h]
  rfl

/-- Settles O21, by the flag selected. -/
theorem irqDispatchActivates : Obligations.IrqDispatchActivates := by
  intro s
  have other {f : IstrFlag} (h : select s.istr = some f) (hreset : f ≠ .reset) (hctr : f ≠ .ctr) :
      exec .irqDispatch s = .next (toClear (flagBit f) (latch s.params.ctx .clear s)) :=
    congrArg Host.Outcome.next (activate_of_other h hreset hctr _)
  refine ⟨fun h10 => ?_, fun h10 h15 => ?_, fun h10 h15 h9 => ?_, fun h10 h15 h9 h12 => ?_,
    fun h10 h15 h9 h12 h11 => ?_, fun h10 h15 h9 h12 h11 h13 => ?_⟩
  · exact congrArg Host.Outcome.next (activate_of_reset (select_of_reset h10) _)
  · exact congrArg Host.Outcome.next (activate_of_ctr (select_of_ctr h10 h15) _)
  · exact other (f := .sof) (by rw [select_eq_ite, h10, h15, h9]; rfl) (by decide) (by decide)
  · exact other (f := .wkup) (by rw [select_eq_ite, h10, h15, h9, h12]; rfl) (by decide) (by decide)
  · exact other (f := .susp) (by rw [select_eq_ite, h10, h15, h9, h12, h11]; rfl) (by decide) (by decide)
  · exact other (f := .err) (by rw [select_eq_ite, h10, h15, h9, h12, h11, h13]; rfl) (by decide) (by decide)

/-- Settles O22: with no flag of the order set, the selection is NONE. -/
theorem noRecognisedFlagTraps : Obligations.NoRecognisedFlagTraps := by
  intro s hclear
  obtain ⟨-, hnone⟩ := selectFollowsThePriorityOrder s.istr
  exact congrArg Host.Outcome.next (activate_of_none (hnone.mpr hclear) s.params.ctx)

/-! ## The block's step and the handler's, by the dispatcher's state (R160) -/

theorem blockStep_of_resetAct {s : State} (h : s.fsm = .resetAct) : blockStep s = some (.next (resetStep s)) := by
  simp only [blockStep, h]

theorem blockStep_of_ctrEval {s : State} (h : s.fsm = .ctrEval) : blockStep s = some (.next (evalStep s)) := by
  simp only [blockStep, h]

theorem blockStep_of_clear {s : State} (h : s.fsm = .clear) : blockStep s = some (.next (clearStep s)) := by
  simp only [blockStep, h]

/-- In CALL_WAIT the handler's turn is its answer (R169, R214). -/
theorem step_of_callWait {s : State} (h : s.fsm = .callWait) (hturn : handlersTurn s) :
    step s = .next (handlerAnswer (afterTurn s)) := by
  rcases hturn with hagenda | hhead
  · simp only [step, agentStep, hagenda, defaultStep, blockStep, otherStep, h, afterTurn_nil hagenda]
  · cases hagenda : s.agenda with
    | nil => simp [hagenda] at hhead
    | cons t rest =>
      obtain rfl : t = .handler := by simpa [hagenda] using hhead
      rw [← afterTurn_eq_of_cons hagenda]
      simp only [step, agentStep, hagenda, takeTurn, h, if_true]

/-- Settles O24: the handler's turn in CALL_WAIT is its answer. -/
theorem handlerAnswers : Obligations.HandlerAnswers := fun _ h hturn => step_of_callWait h hturn

/-! ## The evaluate step (R165 to R168, R172) -/

/-- EP_ID of the snapshot names an endpoint, whose live register decides. -/
theorem evalStep_of_lt {s : State} (h : (epId s.snapv).toNat < 8) :
    evalStep s = decideCtr s.epr[(epId s.snapv).toNat] s := by
  have hindex : endpointIndex (epId s.snapv).toNat = some ⟨(epId s.snapv).toNat, h⟩ := endpointIndex_eq_some.mpr rfl
  simp only [evalStep, hindex, readEpr_eq]

theorem evalStep_of_ge {s : State} (h : 8 ≤ (epId s.snapv).toNat) :
    evalStep s = faulted 0x31 .epRange (BitVec.ofNat 16 (epId s.snapv).toNat) s := by
  simp only [evalStep, endpointIndex_eq_none.mpr h, BitVec.ofNat_toNat]
  rfl

theorem decideCtr_of_setup {e : Halfword} (hrx : ctrRx e = true) (hsetup : setupFlag e = true) (s : State) :
    decideCtr e s = callHandler s := by simp only [decideCtr, hrx, hsetup, if_true]

theorem decideCtr_of_rx {e : Halfword} (hrx : ctrRx e = true) (hsetup : setupFlag e = false) (s : State) :
    decideCtr e s = toClear (flagBit .ctr) s := by simp [decideCtr, hrx, hsetup]

/-- With no reception, a transmission counts under the fix only (decision D19). -/
theorem decideCtr_of_fixed_tx {e : Halfword} {s : State} (hrx : ctrRx e = false) (htx : ctrTx e = true)
    (hfixed : s.params.txCheckFixed = true) : decideCtr e s = toClear (flagBit .ctr) s := by
  simp [decideCtr, secondTest, hrx, htx, hfixed]

theorem decideCtr_of_no_direction {e : Halfword} {s : State} (hrx : ctrRx e = false)
    (htx : ctrTx e = false ∨ s.params.txCheckFixed = false) :
    decideCtr e s = faulted 0x21 .ctrNoDirection (BitVec.ofNat 16 (epId s.snapv).toNat) s := by
  have hsecond : secondTest s.params.txCheckFixed e = false := by
    rcases htx with h | h <;> simp [secondTest, h, hrx]
  simp only [decideCtr, hrx, hsecond, BitVec.ofNat_toNat]
  rfl

theorem callHandler_of_some {s : State} {ctx : Ctx} (h : s.ctxl = some ctx) :
    callHandler s = { s with fsm := .callWait, events := s.events ++ [.handlerCall ctx] } := by
  simp only [callHandler, h]

/-- Settles O23: the block's turn in CTR_EVAL is the evaluate step, and the live register decides it. -/
theorem evaluateStepDecides : Obligations.EvaluateStepDecides := by
  intro s hfsm hturn
  have hstep : step s = .next (evalStep (afterTurn s)) :=
    step_of_blockStep hturn (blockStep_of_ctrEval (s := afterTurn s) hfsm)
  have hlive (h : (epId s.snapv).toNat < 8) :
      step s = .next (decideCtr s.epr[(epId s.snapv).toNat] (afterTurn s)) :=
    hstep.trans (congrArg Host.Outcome.next (evalStep_of_lt (s := afterTurn s) h))
  refine ⟨fun h ctx hrx hsetup hctxl => ?_, fun h hrx hsetup => ?_, fun h hrx htx hfixed => ?_, fun h hrx htx => ?_,
    fun h => ?_⟩
  · rw [hlive h, decideCtr_of_setup hrx hsetup, callHandler_of_some (s := afterTurn s) hctxl]
    rfl
  · rw [hlive h, decideCtr_of_rx hrx hsetup]
    rfl
  · rw [hlive h, decideCtr_of_fixed_tx (s := afterTurn s) hrx htx hfixed]
    rfl
  · rw [hlive h, decideCtr_of_no_direction (s := afterTurn s) hrx htx]
    rfl
  · rw [hstep, evalStep_of_ge (s := afterTurn s) h]
    rfl

/-! ## The clear step (R170) -/

/-- With CLR a flag's bit, that flag is cleared and recorded. -/
theorem clearStep_of_flagBit {s : State} {f : IstrFlag} (h : s.clr = flagBit f) :
    clearStep s =
      { s with istr := istrClear s.istr (flagBit f), events := s.events ++ [.cleared f], fsm := .idle } := by
  simp only [clearStep, h, flagOfBit_flagBit]

/-- Settles O25: the clear step, and its write of ISTR bit by bit. -/
theorem clearStepClearsOneFlag : Obligations.ClearStepClearsOneFlag := by
  intro s f hfsm hclr hturn
  have hstep : step s = .next (clearStep (afterTurn s)) :=
    step_of_blockStep hturn (blockStep_of_clear (s := afterTurn s) hfsm)
  rw [clearStep_of_flagBit (s := afterTurn s) hclr] at hstep
  refine ⟨_, hstep, fun j => ?_, rfl⟩
  rw [hclr]
  exact istrClear_getLsbD s.istr f j

/-! ## A dispatch with no turn chosen (agenda = []) -/

/-- With no turn chosen, a run begins with the block's step. -/
theorem runSteps_of_blockStep (s : State) {t : State} (hagenda : s.agenda = []) (h : blockStep s = some (.next t))
    (k : Nat) : runSteps (k + 1) s = runSteps k t := by
  have hstep : step s = .next t := step_of_blockStep (.inl hagenda) (by rwa [afterTurn_nil hagenda])
  simp only [runSteps, hstep]

/-- With no turn chosen, the handler answers in CALL_WAIT. -/
theorem runSteps_of_callWait (s : State) (hagenda : s.agenda = []) (h : s.fsm = .callWait) (k : Nat) :
    runSteps (k + 1) s = runSteps k (handlerAnswer s) := by
  have hstep := step_of_callWait h (.inl hagenda)
  rw [afterTurn_nil hagenda] at hstep
  simp only [runSteps, hstep]

/-- With no turn chosen, the clear step ends the dispatch. -/
theorem runSteps_of_clear (s : State) {f : IstrFlag} (hagenda : s.agenda = []) (hfsm : s.fsm = .clear)
    (hclr : s.clr = flagBit f) :
    runSteps 1 s =
      .next { s with istr := istrClear s.istr (flagBit f), events := s.events ++ [.cleared f], fsm := .idle } := by
  rw [runSteps_of_blockStep s hagenda (blockStep_of_clear hfsm), clearStep_of_flagBit hclr, runSteps]

/-- `s` after an IRQ_DISPATCH of `n` words that entered the state `f` of the dispatcher (R161, R162). -/
def activated (f : Fsm) (n : Nat) (s : State) : State := latch s.params.ctx f (consume n s)

/-- The first step with IRQ_DISPATCH next is the activation. -/
theorem runSteps_of_irqDispatch {s : State} {n : Nat} (hidle : s.fsm = .idle) (hagenda : s.agenda = [])
    (hf : fetch s = .instr .irqDispatch n) (k : Nat) :
    runSteps (k + 1) s = runSteps k (activate s.params.ctx (consume n s)) :=
  runSteps_of_blockStep s hagenda (blockStep_of_fetch hidle hf) k

/-- A dispatch of RESET: activation and reset step. -/
theorem runSteps_of_reset_pending {s : State} {n : Nat} (hidle : s.fsm = .idle) (hagenda : s.agenda = [])
    (hf : fetch s = .instr .irqDispatch n) (hreset : flagSet s.istr .reset = true) (k : Nat) :
    runSteps (k + 2) s = runSteps k (resetStep (activated .resetAct n s)) := by
  rw [runSteps_of_irqDispatch hidle hagenda hf, activate_of_reset (s := consume n s) (select_of_reset hreset)]
  exact runSteps_of_blockStep (activated .resetAct n s) hagenda (blockStep_of_resetAct rfl) k

/-- A dispatch of CTR: activation and evaluate step, decided by the register that EP_ID names. -/
theorem runSteps_of_ctr_pending {s : State} {n : Nat} (hidle : s.fsm = .idle) (hagenda : s.agenda = [])
    (hf : fetch s = .instr .irqDispatch n) (hreset : flagSet s.istr .reset = false)
    (hctr : flagSet s.istr .ctr = true) (h : (epId s.istr).toNat < 8) (k : Nat) :
    runSteps (k + 2) s = runSteps k (decideCtr s.epr[(epId s.istr).toNat] (activated .ctrEval n s)) := by
  have heval : evalStep (activated .ctrEval n s) = decideCtr s.epr[(epId s.istr).toNat] (activated .ctrEval n s) :=
    evalStep_of_lt (s := activated .ctrEval n s) h
  rw [runSteps_of_irqDispatch hidle hagenda hf, activate_of_ctr (s := consume n s) (select_of_ctr hreset hctr),
    ← heval]
  exact runSteps_of_blockStep (activated .ctrEval n s) hagenda (blockStep_of_ctrEval rfl) k

/-- `ResetAll` leaves 0 in the address fields of every endpoint (R146). -/
theorem readCell_resetAll_fields (s : State) (e : Fin 8) :
    readCell (resetAll s) (8 * e.val) = 0 ∧ readCell (resetAll s) (8 * e.val + 4) = 0 := by
  have hfield (rx : Bool) : readCell (resetAll s) (8 * e.val + if rx then 4 else 0) = 0 := by
    rw [readCell_resetAll, if_pos (mem_addressCells_iff.mpr ⟨e, rx, rfl⟩)]
  exact ⟨hfield false, hfield true⟩

/-- Settles O26: activation, reset step, clear step. -/
theorem busResetDispatch : Obligations.BusResetDispatch := by
  intro s n hidle hagenda hf hreset
  have hrun := (runSteps_of_reset_pending hidle hagenda hf hreset 1).trans
    (runSteps_of_clear (resetStep (activated .resetAct n s)) (f := .reset) hagenda rfl rfl)
  exact ⟨_, hrun, rfl, readEpr_resetAll s, readCell_resetAll_fields (activated .resetAct n s),
    istrClear_getLsbD s.istr .reset, rfl, rfl, rfl⟩

/-- `s` after the evaluate step of a dispatch called the handler (R168). -/
def handlerCalled (n : Nat) (s : State) : State :=
  { activated .ctrEval n s with fsm := .callWait, events := s.events ++ [.handlerCall s.params.ctx] }

/-- Settles O27: activation, evaluate step with the handler's call, its answer, clear step. -/
theorem setupDispatchCallsTheHandlerOnce : Obligations.SetupDispatchCallsTheHandlerOnce := by
  intro s n h hidle hagenda hf hreset hctr hrx hsetup
  have hcall : decideCtr s.epr[(epId s.istr).toNat] (activated .ctrEval n s) = handlerCalled n s :=
    (decideCtr_of_setup hrx hsetup _).trans (callHandler_of_some rfl)
  have hrun := runSteps_of_ctr_pending hidle hagenda hf hreset hctr h 2
  rw [hcall, runSteps_of_callWait (handlerCalled n s) hagenda rfl,
    runSteps_of_clear (handlerAnswer (handlerCalled n s)) (f := .ctr) hagenda rfl rfl] at hrun
  refine ⟨_, hrun, rfl, ?_, istrClear_getLsbD s.istr .ctr, rfl, rfl, rfl, rfl, rfl⟩
  simp [handlerAnswer, handlerCalled, activated]

/-- Settles O28: without the fix a transmission is no direction, with it CTR is cleared. -/
theorem inCompletionTrapsUnlessFixed : Obligations.InCompletionTrapsUnlessFixed := by
  intro s n h hidle hagenda hf hreset hctr hrx htx
  have hrun := runSteps_of_ctr_pending hidle hagenda hf hreset hctr h
  refine ⟨fun hunfixed => ?_, fun hfixed => ?_⟩
  · rw [decideCtr_of_no_direction (s := activated .ctrEval n s) hrx (.inr hunfixed)] at hrun
    exact ⟨_, hrun 0, rfl, rfl, rfl, rfl, rfl⟩
  · rw [decideCtr_of_fixed_tx (s := activated .ctrEval n s) hrx htx hfixed] at hrun
    have hclear := runSteps_of_clear (toClear (flagBit .ctr) (activated .ctrEval n s)) (f := .ctr) hagenda rfl rfl
    exact ⟨_, (hrun 1).trans hclear, rfl, flagSet_istrClear_self s.istr .ctr, rfl⟩

end Sys2Proof.Machine
end

section
/-! SUPPORT. The dispatcher of 44_dispatcher.md over every step of every agent: the arrows of R160, the one step that
ends a dispatch (R174, R175), what a dispatch writes (R176, R178), and the latches, not read in IDLE (R173, R37). -/

namespace Sys2Proof.Machine

/-! ## The arrows (R160) -/

/-- FSM stays, or it changes along an arrow of R160. -/
def alongAnArrow (s t : State) : Prop := t.fsm = s.fsm ∨ (s.fsm, t.fsm) ∈ dispatcherArrows

theorem alongAnArrow_raiseFault (c : FaultCode) (info : Halfword) {s : State} (h : s.fsm = .idle ∨ s.fsm = .ctrEval) :
    alongAnArrow s (raiseFault c info s) := by
  rcases h with h | h <;> simp [alongAnArrow, dispatcherArrows, h]

theorem alongAnArrow_activate (ctx : Ctx) {s : State} (h : s.fsm = .idle) : alongAnArrow s (activate ctx s) := by
  rcases activate_cases ctx s with ⟨-, e⟩ | ⟨-, e⟩ | ⟨_, -, -, -, e⟩ | ⟨-, e⟩ <;> rw [e]
  case inr.inr.inr => exact alongAnArrow_raiseFault _ _ (.inl h)
  all_goals simp [alongAnArrow, dispatcherArrows, h]

theorem callHandler_fsm (s : State) : (callHandler s).fsm = .callWait := by
  rcases callHandler_cases s with ⟨_, -, e⟩ | ⟨-, e⟩ <;> rw [e]

theorem alongAnArrow_evalStep {s : State} (h : s.fsm = .ctrEval) : alongAnArrow s (evalStep s) := by
  rcases evalStep_cases s with e | e | ⟨c, info, e⟩ <;> rw [e]
  · simp [alongAnArrow, dispatcherArrows, h, callHandler_fsm]
  · simp [alongAnArrow, dispatcherArrows, h]
  · exact alongAnArrow_raiseFault c info (.inr h)

theorem clearStep_fsm (s : State) : (clearStep s).fsm = .idle := by
  rcases clearStep_cases s with ⟨_, -, e⟩ | ⟨-, e⟩ <;> rw [e]

/-- A command leaves IDLE by a fault or an activation only. -/
theorem alongAnArrow_exec {i : Instr} {s t : State} (hidle : s.fsm = .idle) (h : exec i s = .next t) :
    alongAnArrow s t := by
  rcases exec_cases h with ⟨c, info, rfl⟩ | ⟨_, rfl⟩ | ⟨_, _, rfl⟩ | ⟨_, _, rfl⟩ | ⟨_, _, rfl⟩ | rfl | ⟨-, rfl⟩
  · exact alongAnArrow_raiseFault c info (.inl hidle)
  case inr.inr.inr.inr.inr.inr => exact alongAnArrow_activate s.params.ctx hidle
  all_goals exact .inl rfl

/-- Settles O31, by the cases of a step. -/
theorem dispatcherFollowsItsArrows : Obligations.DispatcherFollowsItsArrows := by
  intro s t h hpower hne
  suffices hmove : alongAnArrow s t from hmove.resolve_left hne
  rcases step_cases h with rfl | ⟨hp, -⟩ | ⟨m, -, rfl⟩ | ⟨hfsm, rfl⟩ | ⟨hauto, rfl⟩ | ⟨hfsm, rfl⟩ | ⟨hfsm, rfl⟩ |
    ⟨hfsm, rfl⟩ | ⟨hfsm, i, n, -, hexec⟩ | ⟨hfsm, op, -, rfl⟩ | ⟨hfsm, op, n, -, rfl⟩
  · exact .inl rfl
  · exact absurd hp hpower
  · obtain ⟨-, -, -, hfsm, -⟩ := periphMove_frame m (afterTurn s)
    exact .inl hfsm
  · exact .inr (by simp [handlerAnswer, dispatcherArrows, hfsm])
  · exact alongAnArrow_activate (s := afterTurn s) _ (idle_of_autoEnabled hauto)
  · exact .inr (by simp [resetStep, dispatcherArrows, hfsm])
  · exact alongAnArrow_evalStep (s := afterTurn s) hfsm
  · exact .inr (by simp [clearStep_fsm, dispatcherArrows, hfsm])
  · exact alongAnArrow_exec (s := consume n (afterTurn s)) hfsm hexec
  · exact alongAnArrow_raiseFault (s := consume 1 (afterTurn s)) _ _ (.inl hfsm)
  · exact alongAnArrow_raiseFault (s := consume n (afterTurn s)) _ _ (.inl hfsm)

/-! ## What a dispatch writes (R176, R178) -/

/-- Settles O33: of the steps left to a busy block, only the reset step writes the packet memory and the registers, and
only the clear step writes ISTR. -/
theorem dispatchWritesOnlyItsOwn : Obligations.DispatchWritesOnlyItsOwn := by
  intro s t h hbusy hpower hperipheral
  rcases busy_step_cases hbusy h hpower with rfl | ⟨m, hm, -⟩ | ⟨-, rfl⟩ | ⟨hfsm, rfl⟩ | ⟨-, rfl⟩ | ⟨hfsm, rfl⟩
  · exact ⟨rfl, rfl, fun _ => rfl, fun _ => ⟨rfl, fun _ => rfl⟩⟩
  · exact absurd hm (hperipheral m)
  · exact ⟨rfl, rfl, fun _ => rfl, fun _ => ⟨rfl, fun _ => rfl⟩⟩
  · exact ⟨rfl, rfl, fun _ => rfl, fun hne => absurd hfsm hne⟩
  · obtain ⟨hpma, hdraw, hepr, histr, hdaddr, hresp, -⟩ := evalStep_frame (afterTurn s)
    exact ⟨hdaddr, hresp, fun _ => histr, fun _ => ⟨hepr, readCell_congr (s := afterTurn s) hpma hdraw⟩⟩
  · obtain ⟨hpma, hdraw, hepr, hdaddr, hresp, -⟩ := clearStep_frame (afterTurn s)
    exact ⟨hdaddr, hresp, fun hne => absurd hfsm hne, fun _ => ⟨hepr, readCell_congr (s := afterTurn s) hpma hdraw⟩⟩

/-! ## Only the clear step ends a dispatch (R174, R175) -/

/-- From `s` to `t` no flag was cleared: none is recorded as cleared, and every set flag of ISTR stays set. -/
def clearsNoFlag (s t : State) : Prop :=
  (∀ f, t.events ≠ s.events ++ [.cleared f]) ∧ ∀ f, flagSet s.istr f = true → flagSet t.istr f = true

/-- It is enough that ISTR stays and the history stays or takes one other event. -/
theorem clearsNoFlag_of_frame {s t : State} (histr : t.istr = s.istr)
    (hevents : t.events = s.events ∨ ∃ e, (∀ f, e ≠ .cleared f) ∧ t.events = s.events ++ [e]) : clearsNoFlag s t := by
  refine ⟨fun f => ?_, fun f h => histr ▸ h⟩
  rcases hevents with e | ⟨e, hne, h⟩
  · simp [e]
  · simp [h, hne]

theorem clearsNoFlag_raiseFault (c : FaultCode) (info : Halfword) (s : State) :
    clearsNoFlag s (raiseFault c info s) :=
  clearsNoFlag_of_frame rfl (.inr ⟨.fault c info, nofun, rfl⟩)

theorem clearsNoFlag_activate (ctx : Ctx) (s : State) : clearsNoFlag s (activate ctx s) := by
  rcases activate_cases ctx s with ⟨-, e⟩ | ⟨-, e⟩ | ⟨_, -, -, -, e⟩ | ⟨-, e⟩ <;> rw [e]
  case inr.inr.inr => exact clearsNoFlag_raiseFault _ _ s
  all_goals exact clearsNoFlag_of_frame rfl (.inl rfl)

theorem clearsNoFlag_evalStep (s : State) : clearsNoFlag s (evalStep s) := by
  rcases evalStep_cases s with e | e | ⟨c, info, e⟩ <;> rw [e]
  · rcases callHandler_cases s with ⟨ctx, -, e⟩ | ⟨-, e⟩ <;> rw [e]
    · exact clearsNoFlag_of_frame rfl (.inr ⟨.handlerCall ctx, nofun, rfl⟩)
    · exact clearsNoFlag_of_frame rfl (.inl rfl)
  · exact clearsNoFlag_of_frame rfl (.inl rfl)
  · exact clearsNoFlag_raiseFault c info s

theorem clearsNoFlag_exec {i : Instr} {s t : State} (h : exec i s = .next t) : clearsNoFlag s t := by
  rcases exec_cases h with ⟨c, info, rfl⟩ | ⟨v, rfl⟩ | ⟨_, _, rfl⟩ | ⟨_, _, rfl⟩ | ⟨_, _, rfl⟩ | rfl | ⟨-, rfl⟩
  · exact clearsNoFlag_raiseFault c info s
  · exact clearsNoFlag_of_frame rfl (.inr ⟨.resp v, nofun, rfl⟩)
  case inr.inr.inr.inr.inr.inr => exact clearsNoFlag_activate s.params.ctx s
  all_goals exact clearsNoFlag_of_frame rfl (.inl rfl)

/-- P1 sets a flag and clears none (R212). -/
theorem flagSet_setIstrFlag {v : Halfword} {f : IstrFlag} (g : IstrFlag) (h : flagSet v f = true) :
    flagSet (setIstrFlag g v) f = true := by
  simp only [flagSet, setIstrFlag, BitVec.getLsbD_or, Bool.or_eq_true] at h ⊢
  exact .inl h

theorem clearsNoFlag_periphMove (m : PeriphMove) (s : State) : clearsNoFlag s (periphMove m s) := by
  obtain ⟨-, -, -, -, -, -, -, -, -, hevents, -⟩ := periphMove_frame m s
  cases m with
  | setFlag g => exact ⟨by simp [hevents], fun f h => flagSet_setIstrFlag g h⟩
  | setIdDir b => exact ⟨by simp [hevents], fun f h => (flagSet_setIdDir b s.istr f).trans h⟩
  | rxDone | txDone | setState | writeRxCount => exact clearsNoFlag_of_frame rfl (.inl hevents)
  | writeCell k v =>
    refine clearsNoFlag_of_frame ?_ (.inl hevents)
    simp only [periphMove]
    split <;> rfl

/-- Every step but the power-on reset is the clear step or clears no flag. -/
theorem clearStep_or_clearsNoFlag {s t : State} (h : step s = .next t) (hpower : s.agenda.head? ≠ some .powerOn) :
    (s.fsm = .clear ∧ t = clearStep (afterTurn s)) ∨ clearsNoFlag s t := by
  rcases step_cases h with rfl | ⟨hp, -⟩ | ⟨m, -, rfl⟩ | ⟨-, rfl⟩ | ⟨-, rfl⟩ | ⟨-, rfl⟩ | ⟨-, rfl⟩ |
    hclear | ⟨-, i, n, -, hexec⟩ | ⟨-, op, -, rfl⟩ | ⟨-, op, n, -, rfl⟩
  · exact .inr (clearsNoFlag_of_frame rfl (.inl rfl))
  · exact absurd hp hpower
  · exact .inr (clearsNoFlag_periphMove m (afterTurn s))
  · exact .inr (clearsNoFlag_of_frame rfl (.inr ⟨.handlerReturn s.params.descriptor, nofun, rfl⟩))
  · exact .inr (clearsNoFlag_activate s.params.ctx (afterTurn s))
  · exact .inr (clearsNoFlag_of_frame rfl (.inl rfl))
  · exact .inr (clearsNoFlag_evalStep (afterTurn s))
  · exact .inl hclear
  · exact .inr (clearsNoFlag_exec (s := consume n (afterTurn s)) hexec)
  · exact .inr (clearsNoFlag_raiseFault _ _ (consume 1 (afterTurn s)))
  · exact .inr (clearsNoFlag_raiseFault _ _ (consume n (afterTurn s)))

/-- IDLE is entered from CLEAR only, by the clear step (R174). -/
theorem clearStep_of_enters_idle {s t : State} (h : step s = .next t) (hpower : s.agenda.head? ≠ some .powerOn)
    (hbusy : s.fsm ≠ .idle) (hidle : t.fsm = .idle) : s.fsm = .clear ∧ t = clearStep (afterTurn s) := by
  rcases busy_step_cases hbusy h hpower with rfl | ⟨m, -, rfl⟩ | ⟨-, rfl⟩ | ⟨-, rfl⟩ | ⟨hfsm, rfl⟩ | hclear
  · exact absurd hidle hbusy
  · obtain ⟨-, -, -, hfsm, -⟩ := periphMove_frame m (afterTurn s)
    exact absurd (hfsm.symm.trans hidle) hbusy
  · cases hidle
  · cases hidle
  · rcases alongAnArrow_evalStep (s := afterTurn s) hfsm with e | e
    · exact absurd (e.symm.trans hidle) hbusy
    · simp [hfsm, hidle, dispatcherArrows] at e
  · exact hclear

/-- Settles O32: the invariant gives CLR a recognised flag, the one the clear step records and clears. -/
theorem onlyTheClearStepEndsADispatch : Obligations.OnlyTheClearStepEndsADispatch := by
  intro s t hinv h hpower
  refine ⟨fun hbusy hidle => ?_, fun f hevents => ?_, fun f hset hclear => ?_⟩
  · obtain ⟨hfsm, rfl⟩ := clearStep_of_enters_idle h hpower hbusy hidle
    obtain ⟨f, hrec, hclr⟩ := hinv.clearing hfsm
    rw [clearStep_of_flagBit (s := afterTurn s) hclr]
    exact ⟨hfsm, f, hrec, hclr, rfl, flagSet_istrClear_self s.istr f⟩
  · rcases clearStep_or_clearsNoFlag h hpower with ⟨hfsm, rfl⟩ | ⟨hnone, -⟩
    · exact ⟨hfsm, clearStep_fsm (afterTurn s)⟩
    · exact absurd hevents (hnone f)
  · rcases clearStep_or_clearsNoFlag h hpower with ⟨hfsm, rfl⟩ | ⟨-, hkept⟩
    · obtain ⟨g, -, hclr⟩ := hinv.clearing hfsm
      rw [clearStep_of_flagBit (s := afterTurn s) hclr] at hclear
      by_cases heq : f = g
      · exact ⟨hfsm, heq ▸ hclr, clearStep_fsm (afterTurn s)⟩
      · have hsame : flagSet (istrClear s.istr (flagBit g)) f = flagSet s.istr f := flagSet_istrClear_other s.istr heq
        exact absurd (hsame.symm.trans hclear) (by simp [hset])
    · simp [hkept f hset] at hclear

/-! ## The latches are not read in IDLE (R173, R37) -/

/-- `s` with the latches of `t`. -/
def withLatchesOf (t s : State) : State := { s with snapv := t.snapv, clr := t.clr, ctxl := t.ctxl }

/-- Two states that differ in the latches only are one state with two choices of the latches. -/
theorem eq_withLatchesOf {s t : State} (h : withoutLatches s = withoutLatches t) : t = withLatchesOf t s := by
  cases s
  cases t
  simp only [withoutLatches, State.mk.injEq] at h
  simp [withLatchesOf, h]

/-- Two states agree but for latches that no dispatch will read. -/
def agreeOnRead (s t : State) : Prop :=
  withoutLatches s = withoutLatches t ∧
    (s.fsm ≠ .idle → s.fsm ≠ .fault → s.snapv = t.snapv ∧ s.ctxl = t.ctxl) ∧ (s.fsm = .clear → s.clr = t.clr)

/-- In IDLE and FAULT no latch will be read. -/
theorem agreeOnRead_withLatchesOf (l : State) {s : State} (h : s.fsm = .idle ∨ s.fsm = .fault) :
    agreeOnRead s (withLatchesOf l s) := by
  refine ⟨rfl, fun hidle hfault => absurd h (not_or.mpr ⟨hidle, hfault⟩), fun hclear => ?_⟩
  simp [hclear] at h

/-- An activation writes every latch that its dispatch reads, or traps (R162, R171). -/
theorem agreeOnRead_activate (ctx : Ctx) (l s : State) :
    agreeOnRead (activate ctx s) (activate ctx (withLatchesOf l s)) := by
  rcases activate_cases ctx s with ⟨hsel, e⟩ | ⟨hsel, e⟩ | ⟨f, hsel, hreset, hctr, e⟩ | ⟨hsel, e⟩ <;> rw [e]
  · rw [activate_of_reset (s := withLatchesOf l s) hsel]
    exact ⟨rfl, fun _ _ => ⟨rfl, rfl⟩, nofun⟩
  · rw [activate_of_ctr (s := withLatchesOf l s) hsel]
    exact ⟨rfl, fun _ _ => ⟨rfl, rfl⟩, nofun⟩
  · rw [activate_of_other (s := withLatchesOf l s) hsel hreset hctr]
    exact ⟨rfl, fun _ _ => ⟨rfl, rfl⟩, fun _ => rfl⟩
  · rw [activate_of_none (s := withLatchesOf l s) hsel]
    exact agreeOnRead_withLatchesOf l (.inr rfl)

/-- Two outcomes are states that agree, or the same end of a run. -/
def outcomesAgree (o p : Host.Outcome State Fault Refusal) : Prop :=
  (∀ s, o = .next s → ∃ t, p = .next t ∧ agreeOnRead s t) ∧ ∀ r, o = .fault r → p = .fault r

theorem outcomesAgree_next {s t : State} (h : agreeOnRead s t) : outcomesAgree (.next s) (.next t) :=
  ⟨fun _ e => ⟨t, rfl, Host.Outcome.next.inj e ▸ h⟩, nofun⟩

theorem outcomesAgree_fault (r : Fault) : outcomesAgree (.fault r) (.fault r) := ⟨nofun, fun _ e => e⟩

/-- The endpoint check reads no latch. -/
theorem withEndpoint_withLatchesOf (l : State) {ep : Byte} {body : Fin 8 → State → State} {s t : State}
    (h : withEndpoint ep body s = t) (hbody : ∀ i u, body i (withLatchesOf l u) = withLatchesOf l (body i u)) :
    withEndpoint ep body (withLatchesOf l s) = withLatchesOf l t := by
  subst h
  unfold withEndpoint
  split
  · exact hbody _ s
  · rfl

/-- The RX size check reads no latch. -/
theorem withRxSize_withLatchesOf (l : State) {size : Halfword} {body : State → State} {s t : State}
    (h : withRxSize size body s = t) (hbody : ∀ u, body (withLatchesOf l u) = withLatchesOf l (body u)) :
    withRxSize size body (withLatchesOf l s) = withLatchesOf l t := by
  subst h
  unfold withRxSize
  split
  · exact hbody s
  · rfl

/-- The range check reads no latch. -/
theorem withRange_withLatchesOf (l : State) {ok : Bool} {info : Halfword} {body : State → State} {s t : State}
    (h : withRange ok info body s = t) (hbody : ∀ u, body (withLatchesOf l u) = withLatchesOf l (body u)) :
    withRange ok info body (withLatchesOf l s) = withLatchesOf l t := by
  subst h
  unfold withRange
  split
  · exact hbody s
  · rfl

/-- Every command but IRQ_DISPATCH neither reads nor writes a latch. -/
theorem exec_withLatchesOf {i : Instr} {s t : State} (hi : i ≠ .irqDispatch) (l : State) (h : exec i s = .next t) :
    exec i (withLatchesOf l s) = .next (withLatchesOf l t) := by
  cases i with
  | pmaGet | pmaSet | pmaWriteBuf =>
    injection h with h
    exact congrArg Host.Outcome.next (withRange_withLatchesOf l h fun _ => rfl)
  | bdtTxAddr | bdtSetTxAddr | bdtTxCount | bdtRxAddr | bdtSetRxAddr | bdtRxCount | epRead | epWrite =>
    injection h with h
    exact congrArg Host.Outcome.next (withEndpoint_withLatchesOf l h fun _ _ => rfl)
  | encodeRxSize =>
    injection h with h
    exact congrArg Host.Outcome.next (withRxSize_withLatchesOf l h fun _ => rfl)
  | bdtSetRxSize =>
    injection h with h
    exact congrArg Host.Outcome.next
      (withEndpoint_withLatchesOf l h fun _ _ => withRxSize_withLatchesOf l rfl fun _ => rfl)
  | pmaAlloc size =>
    rcases Nat.lt_or_ge (lowestAllocated s) (size.toNat + 64) with hlow | hlow
    · obtain rfl := Host.Outcome.next.inj ((exec_pmaAlloc_of_lt hlow).symm.trans h)
      exact exec_pmaAlloc_of_lt (s := withLatchesOf l s) hlow
    · obtain rfl := Host.Outcome.next.inj ((exec_pmaAlloc hlow).symm.trans h)
      exact exec_pmaAlloc (s := withLatchesOf l s) hlow
  | epResetAll =>
    injection h with h
    exact h ▸ rfl
  | irqDispatch => exact absurd rfl hi

/-- A command of the idle block: IRQ_DISPATCH writes the latches it needs, every other command leaves IDLE or faults. -/
theorem exec_outcomesAgree (i : Instr) (l : State) {s : State} (hidle : s.fsm = .idle) :
    outcomesAgree (exec i s) (exec i (withLatchesOf l s)) := by
  by_cases hi : i = .irqDispatch
  · subst hi
    exact outcomesAgree_next (agreeOnRead_activate s.params.ctx l s)
  · obtain ⟨t, ht⟩ := exec_answers_next i s
    have hfsm : t.fsm = .idle ∨ t.fsm = .fault := by
      rcases exec_cases ht with ⟨_, _, rfl⟩ | ⟨_, rfl⟩ | ⟨_, _, rfl⟩ | ⟨_, _, rfl⟩ | ⟨_, _, rfl⟩ | rfl | ⟨h, -⟩
      · exact .inr rfl
      case inr.inr.inr.inr.inr.inr => exact absurd h hi
      all_goals exact .inl hidle
    rw [ht, exec_withLatchesOf hi l ht]
    exact outcomesAgree_next (agreeOnRead_withLatchesOf l hfsm)

/-- The idle block has a step with the one choice of the latches when it has one with the other, and they agree. -/
theorem blockStep_withLatchesOf (l : State) {s : State} (hidle : s.fsm = .idle) :
    (blockStep s = none ∧ blockStep (withLatchesOf l s) = none) ∨
      ∃ o p, blockStep s = some o ∧ blockStep (withLatchesOf l s) = some p ∧ outcomesAgree o p := by
  have hidle' : (withLatchesOf l s).fsm = .idle := hidle
  have hfetch : fetch (withLatchesOf l s) = fetch s := rfl
  simp only [blockStep, hidle, hidle', commandStep, hfetch]
  split
  · exact .inr ⟨_, _, rfl, rfl, exec_outcomesAgree _ l (s := consume _ s) hidle⟩
  · exact .inr ⟨_, _, rfl, rfl, outcomesAgree_next (agreeOnRead_withLatchesOf l (.inr rfl))⟩
  · exact .inr ⟨_, _, rfl, rfl, outcomesAgree_next (agreeOnRead_withLatchesOf l (.inr rfl))⟩
  · exact .inl ⟨rfl, rfl⟩
  · exact .inl ⟨rfl, rfl⟩

/-- The peripheral neither reads nor writes a latch (R212). -/
theorem periphMove_withLatchesOf (m : PeriphMove) (l s : State) :
    periphMove m (withLatchesOf l s) = withLatchesOf l (periphMove m s) := by
  cases m with
  | writeCell k v =>
    simp only [periphMove]
    split <;> rfl
  | setFlag | setIdDir | rxDone | txDone | setState | writeRxCount => rfl

/-- A chosen turn, taken in IDLE. -/
theorem takeTurn_outcomesAgree (turn : Turn) (l : State) {s : State} (hidle : s.fsm = .idle) :
    outcomesAgree (takeTurn turn s) (takeTurn turn (withLatchesOf l s)) := by
  have hpass : outcomesAgree (.next s) (.next (withLatchesOf l s)) :=
    outcomesAgree_next (agreeOnRead_withLatchesOf l (.inl hidle))
  cases turn with
  | block =>
    rcases blockStep_withLatchesOf l hidle with ⟨hs, ht⟩ | ⟨o, p, hs, ht, hagree⟩ <;> simp only [takeTurn, hs, ht]
    · exact hpass
    · exact hagree
  | activation =>
    have hauto : autoEnabled (withLatchesOf l s) = autoEnabled s := rfl
    simp only [takeTurn, hauto]
    split
    · exact outcomesAgree_next (agreeOnRead_activate s.params.ctx l s)
    · exact hpass
  | handler =>
    have hwait : s.fsm ≠ .callWait := by simp [hidle]
    simp only [takeTurn, if_neg hwait, if_neg (show (withLatchesOf l s).fsm ≠ .callWait from hwait)]
    exact hpass
  | peripheral m =>
    obtain ⟨-, -, -, hfsm, -⟩ := periphMove_frame m s
    simp only [takeTurn, periphMove_withLatchesOf]
    exact outcomesAgree_next (agreeOnRead_withLatchesOf l (.inl (hfsm.trans hidle)))
  | powerOn => exact outcomesAgree_next ⟨rfl, fun _ _ => ⟨rfl, rfl⟩, fun _ => rfl⟩

/-- The default order, in IDLE. -/
theorem defaultStep_outcomesAgree (l : State) {s : State} (hidle : s.fsm = .idle) :
    outcomesAgree (defaultStep s) (defaultStep (withLatchesOf l s)) := by
  rcases blockStep_withLatchesOf l hidle with ⟨hs, ht⟩ | ⟨o, p, hs, ht, hagree⟩ <;> simp only [defaultStep, hs, ht]
  · have hidle' : (withLatchesOf l s).fsm = .idle := hidle
    have hauto : autoEnabled (withLatchesOf l s) = autoEnabled s := rfl
    have hpending : pending (withLatchesOf l s) = pending s := rfl
    simp only [otherStep, hidle, hidle', quietStep, hauto, hpending]
    split
    · exact outcomesAgree_next (agreeOnRead_activate s.params.ctx l s)
    · split <;> exact outcomesAgree_fault _
  · exact hagree

/-- Settles O34: the second state is the first with other latches, and the same turn is taken in both. -/
theorem latchesAreNotReadInIdle : Obligations.LatchesAreNotReadInIdle := by
  intro s t hidle hsame
  suffices hagree : outcomesAgree (step s) (step t) from hagree
  rw [eq_withLatchesOf hsame]
  cases hagenda : s.agenda with
  | nil =>
    have hagenda' : (withLatchesOf t s).agenda = [] := hagenda
    simp only [step, agentStep, hagenda, hagenda']
    exact defaultStep_outcomesAgree t hidle
  | cons turn rest =>
    have hagenda' : (withLatchesOf t s).agenda = turn :: rest := hagenda
    simp only [step, agentStep, hagenda, hagenda']
    exact takeTurn_outcomesAgree turn t (s := { s with agenda := rest }) hidle

end Sys2Proof.Machine
end

section
/-! SUPPORT. The event handler's interface data of 45_descriptor_formats.md: the fields of a version word as quotients
and remainders, the power rating as a number, and the bytes of a descriptor as one list. -/

namespace Sys2Proof.Machine

/-! ## The USB version word (R191 to R193) -/

/-- Appending low bits multiplies the high part by their range: no carry passes between the two. -/
theorem toNat_append_eq_add {m n : Nat} (x : BitVec m) (y : BitVec n) :
    (x ++ y).toNat = x.toNat * 2 ^ n + y.toNat := by
  rw [BitVec.toNat_append, ← Nat.shiftLeft_add_eq_or_of_lt y.isLt, Nat.shiftLeft_eq]

/-- `new` as a number: the three truncated inputs side by side. -/
theorem usbVersion_toNat (major minor revision : Nat) :
    (usbVersion major minor revision).toNat = major % 256 * 256 + minor % 16 * 16 + revision % 16 := by
  simp only [usbVersion, toNat_append_eq_add, BitVec.toNat_ofNat]
  omega

/-- The top field needs no remainder: a word has no bit above it. -/
theorem versionMajor_eq_div (v : BitVec 16) : versionMajor v = v.toNat / 256 := by
  have hword : v.toNat < 2 ^ 16 := v.isLt
  simp only [versionMajor, BitVec.extractLsb'_toNat, Nat.shiftRight_eq_div_pow]
  omega

theorem versionMinor_eq_div_mod (v : BitVec 16) : versionMinor v = v.toNat / 16 % 16 := by
  simp only [versionMinor, BitVec.extractLsb'_toNat, Nat.shiftRight_eq_div_pow]

theorem versionRevision_eq_mod (v : BitVec 16) : versionRevision v = v.toNat % 16 := by
  simp only [versionRevision, BitVec.extractLsb'_toNat, Nat.shiftRight_zero]

theorem versionMajor_usbVersion (major minor revision : Nat) :
    versionMajor (usbVersion major minor revision) = major % 256 := by
  rw [versionMajor_eq_div, usbVersion_toNat]
  omega

theorem versionMinor_usbVersion (major minor revision : Nat) :
    versionMinor (usbVersion major minor revision) = minor % 16 := by
  rw [versionMinor_eq_div_mod, usbVersion_toNat]
  omega

theorem versionRevision_usbVersion (major minor revision : Nat) :
    versionRevision (usbVersion major minor revision) = revision % 16 := by
  rw [versionRevision_eq_mod, usbVersion_toNat]
  omega

/-! ## The power rating and the device descriptor (R194, R195) -/

/-- The eight stored bits wrap the count of 2 mA units (D38). -/
theorem powerRead_powerStore (mA : Nat) : powerRead (powerStore mA) = mA / 2 % 256 * 2 := by
  simp only [powerRead, powerStore, BitVec.toNat_ofNat]

/-- The serialised descriptor, byte after byte. -/
theorem descriptorBytes_eq (d : DeviceDescriptor) : descriptorBytes d =
    [18, 1, d.bcdUSB.extractLsb' 0 8, d.bcdUSB.extractLsb' 8 8, d.bDeviceClass, d.bDeviceSubClass, d.bDeviceProtocol,
      d.bMaxPacketSize0, d.idVendor.extractLsb' 0 8, d.idVendor.extractLsb' 8 8, d.idProduct.extractLsb' 0 8,
      d.idProduct.extractLsb' 8 8, d.bcdDevice.extractLsb' 0 8, d.bcdDevice.extractLsb' 8 8, d.iManufacturer,
      d.iProduct, d.iSerialNumber, d.bNumConfigurations] := rfl

/-! ## The statements -/

/-- Settles O59: the fields of any word by division, and `new` as a number to divide. -/
theorem usbVersionFields : Obligations.UsbVersionFields :=
  ⟨fun major minor revision =>
    ⟨usbVersion_toNat major minor revision, versionMajor_usbVersion major minor revision,
      versionMinor_usbVersion major minor revision, versionRevision_usbVersion major minor revision⟩,
   fun v => ⟨versionMajor_eq_div v, versionMinor_eq_div_mod v, versionRevision_eq_mod v⟩⟩

/-- Settles O60: the list of the bytes is read off at each offset. -/
theorem powerAndDescriptorFormats : Obligations.PowerAndDescriptorFormats :=
  ⟨powerRead_powerStore, fun d => by simp [descriptorBytes_eq]⟩

end Sys2Proof.Machine
end

section
/-! SUPPORT. The faults and the ends of a run of 60_exceptions.md: what fault entry writes (R203, R204), FAULT as a
state that only the power-on reset leaves, and when the machine has no step (R205). -/

namespace Sys2Proof.Machine

/-! ## Entering FAULT (R203, R204) -/

/-- An activation that leaves FAULT is fault entry alone (R171). -/
theorem activate_eq_raiseFault {ctx : Ctx} {s : State} (hfault : (activate ctx s).fsm = .fault) :
    ∃ code info, activate ctx s = raiseFault code info s := by
  rcases activate_cases ctx s with ⟨-, e⟩ | ⟨-, e⟩ | ⟨_, -, -, -, e⟩ | ⟨-, e⟩
  case inr.inr.inr => exact ⟨_, _, e⟩
  all_goals simp [e] at hfault

/-- An evaluate step that leaves FAULT is fault entry alone (R165, R172). -/
theorem evalStep_eq_raiseFault {s : State} (hfault : (evalStep s).fsm = .fault) :
    ∃ code info, evalStep s = raiseFault code info s := by
  rcases evalStep_cases s with e | e | e
  · simp [e, callHandler_fsm] at hfault
  · simp [e] at hfault
  · exact e

/-- A command that enters FAULT is fault entry alone: every check comes before the effects (R76). -/
theorem exec_eq_raiseFault {i : Instr} {s t : State} (h : exec i s = .next t) (hrun : s.fsm ≠ .fault)
    (hfault : t.fsm = .fault) : ∃ code info, t = raiseFault code info s := by
  rcases exec_cases h with e | ⟨_, rfl⟩ | ⟨_, _, rfl⟩ | ⟨_, _, rfl⟩ | ⟨_, _, rfl⟩ | rfl | ⟨-, rfl⟩
  · exact e
  case inr.inr.inr.inr.inr.inr => exact activate_eq_raiseFault hfault
  all_goals exact absurd hfault hrun

/-- A step into FAULT is fault entry from the state with the turn taken, but for the words consumed. -/
theorem step_into_fault {s t : State} (h : step s = .next t) (hrun : s.fsm ≠ .fault) (hfault : t.fsm = .fault) :
    ∃ code info pos, t = raiseFault code info { afterTurn s with pos := pos } := by
  rcases step_cases h with rfl | ⟨-, rfl⟩ | ⟨m, -, rfl⟩ | ⟨-, rfl⟩ | ⟨-, rfl⟩ | ⟨-, rfl⟩ | ⟨-, rfl⟩ | ⟨-, rfl⟩ |
    ⟨-, i, n, -, hexec⟩ | ⟨-, op, -, rfl⟩ | ⟨-, op, n, -, rfl⟩
  · exact absurd hfault hrun
  · cases hfault
  · obtain ⟨-, -, -, hfsm, -⟩ := periphMove_frame m (afterTurn s)
    exact absurd (hfsm.symm.trans hfault) hrun
  · cases hfault
  · obtain ⟨code, info, e⟩ := activate_eq_raiseFault hfault
    exact ⟨code, info, s.pos, e⟩
  · cases hfault
  · obtain ⟨code, info, e⟩ := evalStep_eq_raiseFault hfault
    exact ⟨code, info, s.pos, e⟩
  · simp [clearStep_fsm] at hfault
  · obtain ⟨code, info, e⟩ := exec_eq_raiseFault hexec hrun hfault
    exact ⟨code, info, _, e⟩
  · exact ⟨_, _, _, rfl⟩
  · exact ⟨_, _, _, rfl⟩

/-- Settles O36: fault entry writes the fault registers, FSM and the history. -/
theorem faultsArePrecise : Obligations.FaultsArePrecise := by
  intro s t h hrun hfault
  obtain ⟨code, info, pos, rfl⟩ := step_into_fault h hrun hfault
  exact ⟨code, info, rfl⟩

/-! ## Leaving FAULT (R205, R236) -/

/-- In FAULT a chosen turn but the power-on reset passes or is the peripheral's. -/
theorem step_of_fault {s t : State} (hfault : s.fsm = .fault) (h : step s = .next t)
    (hpower : s.agenda.head? ≠ some .powerOn) : t = afterTurn s ∨ ∃ m, t = periphMove m (afterTurn s) := by
  rcases busy_step_cases (by simp [hfault]) h hpower with e | ⟨m, -, e⟩ | ⟨hfsm, -⟩ | ⟨hfsm, -⟩ | ⟨hfsm, -⟩ |
    ⟨hfsm, -⟩
  · exact .inl e
  · exact .inr ⟨m, e⟩
  all_goals simp [hfault] at hfsm

/-- With no turn chosen, a run in FAULT has halted. -/
theorem step_eq_halted {s : State} (hagenda : s.agenda = []) (hfault : s.fsm = .fault) :
    step s = .fault .halted := by
  simp only [step, agentStep, hagenda, defaultStep, blockStep, otherStep, hfault]

/-- Settles O37: what can still move in FAULT is the peripheral, and its frame holds all that is named. -/
theorem faultIsAbsorbing : Obligations.FaultIsAbsorbing := by
  refine fun s hfault => ⟨fun t h hpower => ?_, fun hagenda => step_eq_halted hagenda hfault⟩
  rcases step_of_fault hfault h hpower with rfl | ⟨m, rfl⟩
  · exact ⟨hfault, rfl, rfl, rfl, rfl, rfl, rfl, rfl, rfl, rfl⟩
  · obtain ⟨-, hdaddr, hresp, hfsm, hsnapv, hclr, hctxl, hcause, hinfo, hevents, -, hpos, -, -⟩ :=
      periphMove_frame m (afterTurn s)
    exact ⟨hfsm.trans hfault, hcause, hinfo, hresp, hdaddr, hsnapv, hclr, hctxl, hevents, hpos⟩

/-! ## The ends of a run (R205, decision D39) -/

/-- The end of a run that each stop of the machine stands for (R205). -/
def runEnded : Fault → State → Prop
  | .completed => runCompleted
  | .halted => runHalted
  | .stuck => runStuck

/-- A chosen turn is taken in the state with the turn off the agenda. -/
theorem step_of_turn {s : State} {turn : Turn} (h : s.agenda.head? = some turn) :
    step s = takeTurn turn (afterTurn s) := by
  obtain ⟨rest, hagenda⟩ := List.head?_eq_some_iff.mp h
  simp only [step, agentStep, hagenda, afterTurn_eq_of_cons hagenda]

/-- The block's step, where it has one, has a next state (R203). -/
theorem blockStep_answers_next {s : State} {o : Host.Outcome State Fault Refusal} (h : blockStep s = some o) :
    ∃ t, o = .next t := by
  rcases blockStep_cases h with ⟨-, rfl⟩ | ⟨-, rfl⟩ | ⟨-, rfl⟩ | ⟨-, i, n, -, rfl⟩ | ⟨-, _, -, rfl⟩ |
    ⟨-, _, _, -, rfl⟩
  case inr.inr.inr.inl => exact exec_answers_next i (consume n s)
  all_goals exact ⟨_, rfl⟩

/-- A chosen turn is taken or passes, and the run goes on. -/
theorem takeTurn_answers_next (turn : Turn) (s : State) : ∃ t, takeTurn turn s = .next t := by
  cases turn with
  | block =>
    cases hblock : blockStep s with
    | none => exact ⟨s, by simp only [takeTurn, hblock]⟩
    | some o =>
      obtain ⟨t, rfl⟩ := blockStep_answers_next hblock
      exact ⟨t, by simp only [takeTurn, hblock]⟩
  | activation | handler | peripheral | powerOn => exact ⟨_, rfl⟩

/-- The decoder finds no command only at the end of the words. -/
theorem decode_eq_noCommand {ws : List CmdWord} (h : decode ws = .reject .noCommand) : ws = [] := by
  cases ws with
  | nil => rfl
  | cons w rest =>
    rcases decode_cases w rest with ⟨-, e⟩ | ⟨_, -, ⟨-, e⟩ | ⟨-, -, e⟩ | ⟨-, -, e⟩⟩ <;> rw [e] at h <;> cases h

/-- A command whose payload is missing is ahead of the position. -/
theorem pending_ne_nil_of_missing {s : State} (h : fetch s = .reject .payloadMissing) : pending s ≠ [] := by
  intro hnil
  rw [fetch_eq_decode hnil] at h
  cases h

/-- An idle block with the stream consumed has no step. -/
theorem blockStep_of_consumed {s : State} (hidle : s.fsm = .idle) (hpending : pending s = []) : blockStep s = none := by
  simp only [blockStep, hidle, commandStep, fetch_eq_decode hpending, decode]

/-- Where the block has no step it waits for the handler, has halted, or is idle with no command to run. -/
theorem blockStep_eq_none {s : State} (h : blockStep s = none) :
    s.fsm = .callWait ∨ s.fsm = .fault ∨
      (s.fsm = .idle ∧ (pending s = [] ∨ fetch s = .reject .payloadMissing)) := by
  unfold blockStep at h
  split at h
  case h_1 hidle =>
    unfold commandStep at h
    split at h
    case h_4 hmissing => exact .inr (.inr ⟨hidle, .inr hmissing⟩)
    case h_5 hnone => exact .inr (.inr ⟨hidle, .inl (decode_eq_noCommand hnone)⟩)
    all_goals cases h
  case h_4 hwait => exact .inl hwait
  case h_6 hfault => exact .inr (.inl hfault)
  all_goals cases h

/-- With no turn chosen and no step of an idle block, an activation that is enabled is taken (R209). -/
theorem step_eq_activate {s : State} (hagenda : s.agenda = []) (hidle : s.fsm = .idle) (h : blockStep s = none)
    (hauto : autoEnabled s = true) : step s = .next (activate s.params.ctx s) := by
  simp only [step, agentStep, hagenda, defaultStep, h, otherStep, hidle, quietStep, hauto, if_true]

/-- With no turn chosen, an idle block with the stream consumed and no activation enabled has completed. -/
theorem step_eq_completed {s : State} (hagenda : s.agenda = []) (h : runCompleted s) :
    step s = .fault .completed := by
  obtain ⟨hpending, hidle, hauto⟩ := h
  simp [step, agentStep, hagenda, defaultStep, blockStep_of_consumed hidle hpending, otherStep, hidle, quietStep,
    hauto, hpending]

/-- With no turn chosen, a run that has ended stops the machine under that end's name. -/
theorem step_of_runEnded {r : Fault} {s : State} (hagenda : s.agenda = []) (h : runEnded r s) :
    step s = .fault r := by
  cases r with
  | completed => exact step_eq_completed hagenda h
  | halted => exact step_eq_halted hagenda h
  | stuck =>
    obtain ⟨hmissing, hidle, hauto⟩ := h
    exact step_eq_stuck hagenda hidle (blockStep_of_missing hidle hmissing) hauto (pending_ne_nil_of_missing hmissing)

/-- With no turn chosen and no step of the block, the handler answers, an activation is taken, or the run has ended. -/
theorem step_next_or_ended_of_blockStep_eq_none {s : State} (hagenda : s.agenda = []) (h : blockStep s = none) :
    (∃ t, step s = .next t) ∨ ∃ r, runEnded r s := by
  rcases blockStep_eq_none h with hwait | hfault | ⟨hidle, hahead⟩
  · exact .inl ⟨_, step_of_callWait hwait (.inl hagenda)⟩
  · exact .inr ⟨.halted, hfault⟩
  · cases hauto : autoEnabled s with
    | true => exact .inl ⟨_, step_eq_activate hagenda hidle h hauto⟩
    | false =>
      rcases hahead with hpending | hmissing
      · exact .inr ⟨.completed, hpending, hidle, hauto⟩
      · exact .inr ⟨.stuck, hmissing, hidle, hauto⟩

/-- The machine has a next state, or no turn is chosen and the run has ended. -/
theorem step_next_or_ended (s : State) : (∃ t, step s = .next t) ∨ (s.agenda = [] ∧ ∃ r, runEnded r s) := by
  cases hhead : s.agenda.head? with
  | some turn =>
    rw [step_of_turn hhead]
    exact .inl (takeTurn_answers_next turn (afterTurn s))
  | none =>
    have hagenda : s.agenda = [] := List.head?_eq_none_iff.mp hhead
    cases hblock : blockStep s with
    | some o =>
      obtain ⟨t, rfl⟩ := blockStep_answers_next hblock
      exact .inl ⟨t, step_of_blockStep (.inl hagenda) (by rwa [afterTurn_nil hagenda])⟩
    | none => exact (step_next_or_ended_of_blockStep_eq_none hagenda hblock).imp_right fun h => ⟨hagenda, h⟩

/-- The machine stops exactly at the ends of a run, each under its own name. -/
theorem step_eq_fault_iff {s : State} {r : Fault} : step s = .fault r ↔ s.agenda = [] ∧ runEnded r s := by
  refine ⟨fun h => ?_, fun ⟨hagenda, hend⟩ => step_of_runEnded hagenda hend⟩
  rcases step_next_or_ended s with ⟨t, e⟩ | ⟨hagenda, q, hend⟩
  · cases h.symm.trans e
  · obtain rfl : r = q := Host.Outcome.fault.inj (h.symm.trans (step_of_runEnded hagenda hend))
    exact ⟨hagenda, hend⟩

theorem step_ne_refused (s : State) (r : Refusal) : step s ≠ .refused r := by
  intro h
  rcases step_next_or_ended s with ⟨t, e⟩ | ⟨hagenda, q, hend⟩
  · cases h.symm.trans e
  · cases h.symm.trans (step_of_runEnded hagenda hend)

/-- Settles O38, one equivalence for the three ends. -/
theorem stepStopsExactlyAtTheEndsOfARun : Obligations.StepStopsExactlyAtTheEndsOfARun :=
  fun s => ⟨step_eq_fault_iff, step_eq_fault_iff, step_eq_fault_iff, step_ne_refused s⟩

end Sys2Proof.Machine
end

section
/-! SUPPORT. The other agents of 60_exceptions.md: the automatic activation (R209), the peripheral's moves bit by bit
(R212), and EP_ID under the premise WB (R213, R246). -/

namespace Sys2Proof.Machine

/-! ## The automatic activation (R209) -/

theorem autoEnabled_iff {s : State} :
    autoEnabled s = true ↔ s.fsm = .idle ∧ s.params.irqAuto = true ∧ irqLine s.istr = true := by
  simp [autoEnabled, and_assoc, and_left_comm]

/-- A turn chosen for the activation is taken where it is enabled and passes elsewhere. -/
theorem step_of_activation {s : State} (h : s.agenda.head? = some .activation) :
    step s = .next (if autoEnabled s then activate s.params.ctx (afterTurn s) else afterTurn s) :=
  step_of_turn h

/-- Settles O50: IRQ_DISPATCH is the activation with the same context. -/
theorem automaticActivation : Obligations.AutomaticActivation := by
  refine fun s => ⟨fun hturn hidle hirq hline => ?_, fun hturn hdisabled => ?_⟩
  · have hauto : autoEnabled s = true := autoEnabled_iff.mpr ⟨hidle, hirq, hline⟩
    suffices hstep : step s = .next (activate s.params.ctx (afterTurn s)) from hstep
    rcases hturn with hhead | ⟨hagenda, hpending⟩
    · rw [step_of_activation hhead, if_pos hauto]
    · rw [afterTurn_nil hagenda]
      exact step_eq_activate hagenda hidle (blockStep_of_consumed hidle hpending) hauto
  · have hauto : ¬ autoEnabled s = true := by
      rw [autoEnabled_iff]
      rintro ⟨hidle, hirq, hline⟩
      simp [hidle, hirq, hline] at hdisabled
    rw [step_of_activation hturn, if_neg hauto]
    rfl

/-! ## The peripheral's moves on ISTR (R212 P1, P2) -/

/-- P1 makes one bit 1. -/
theorem setIstrFlag_getLsbD (f : IstrFlag) (v : Halfword) (j : Fin 16) :
    (setIstrFlag f v).getLsbD j.val = (decide (j.val = (flagBit f).toNat) || v.getLsbD j.val) := by
  have hmask := bitMask_getLsbD ⟨(flagBit f).toNat, (flagBit f).isLt⟩ j
  rw [setIstrFlag, BitVec.getLsbD_or, hmask, Bool.or_comm]

/-- P2 writes the low byte. -/
theorem setIdDir_getLsbD (b : Byte) (v : Halfword) (j : Fin 16) :
    (setIdDir b v).getLsbD j.val = if j.val < 8 then b.getLsbD j.val else v.getLsbD j.val := by
  simp only [setIdDir, BitVec.getLsbD_or, BitVec.getLsbD_and, flagsMask_getLsbD, BitVec.getLsbD_setWidth]
  by_cases hlow : j.val < 8
  · simp [hlow]
  · have hhigh : 8 ≤ j.val := Nat.le_of_not_lt hlow
    simp [hhigh, hlow]

/-- Settles O51, bit by bit. -/
theorem peripheralMovesOnIstr : Obligations.PeripheralMovesOnIstr :=
  fun s => ⟨fun f h => ⟨_, step_of_peripheral h, setIstrFlag_getLsbD f s.istr, rfl⟩,
    fun v h => ⟨_, step_of_peripheral h, setIdDir_getLsbD v s.istr, rfl⟩⟩

/-! ## The peripheral's moves on an endpoint register (R212 P3) -/

/-- P3a makes CTR_RX 1 and writes SETUP. -/
theorem rxDoneValue_getLsbD (setup : Bool) (v : Halfword) (j : Fin 16) : (rxDoneValue setup v).getLsbD j.val =
    if j.val = 15 then true else if j.val = 11 then setup else v.getLsbD j.val := by
  have hctr : (bitMask Config.eprCtrRx).getLsbD j.val = decide (j.val = 15) := bitMask_getLsbD 15 j
  have hsetup : (if setup then readOnlyMask else 0).getLsbD j.val = (setup && decide (j.val = 11)) := by
    cases setup
    · exact BitVec.getLsbD_zero
    · exact readOnlyMask_getLsbD j
  simp only [rxDoneValue, BitVec.getLsbD_or, BitVec.getLsbD_and, BitVec.getLsbD_not, hctr, hsetup,
    readOnlyMask_getLsbD]
  split_ifs <;> simp [*]

/-- P3b makes CTR_TX 1. -/
theorem txDoneValue_getLsbD (v : Halfword) (j : Fin 16) :
    (txDoneValue v).getLsbD j.val = if j.val = 7 then true else v.getLsbD j.val := by
  have hctr : (bitMask Config.eprCtrTx).getLsbD j.val = decide (j.val = 7) := bitMask_getLsbD 7 j
  rw [txDoneValue, BitVec.getLsbD_or, hctr]
  by_cases h : j.val = 7 <;> simp [h]

/-- P3c writes the toggle fields. -/
theorem setStateValue_getLsbD (d v : Halfword) (j : Fin 16) : (setStateValue d v).getLsbD j.val =
    if j.val = 14 ∨ j.val = 13 ∨ j.val = 12 ∨ j.val = 6 ∨ j.val = 5 ∨ j.val = 4 then d.getLsbD j.val
    else v.getLsbD j.val := by
  simp only [setStateValue, BitVec.getLsbD_or, BitVec.getLsbD_and, BitVec.getLsbD_not, toggleMask_getLsbD]
  split <;> simp [*]

/-- A move that writes one endpoint register, its value given bit by bit. -/
theorem step_of_endpoint_move {s : State} {m : PeriphMove} {i : Fin 8} {v : Halfword} {bits : Fin 16 → Bool}
    (h : s.agenda.head? = some (.peripheral m)) (hmove : periphMove m (afterTurn s) = setEpr i v (afterTurn s))
    (hbits : ∀ j : Fin 16, v.getLsbD j.val = bits j) :
    ∃ t, step s = .next t ∧ (∀ j : Fin 16, t.epr[i.val].getLsbD j.val = bits j) ∧
      (∀ k : Fin 8, k ≠ i → t.epr[k.val] = s.epr[k.val]) ∧
      { t with epr := s.epr } = { s with agenda := s.agenda.tail } := by
  have hread (k : Fin 8) := readEpr_setEpr (afterTurn s) i k v
  refine ⟨setEpr i v (afterTurn s), by rw [step_of_peripheral h, hmove], fun j => ?_, fun k hk => ?_, rfl⟩
  · exact (congrArg (·.getLsbD j.val) ((hread i).trans (if_pos rfl))).trans (hbits j)
  · exact (hread k).trans (if_neg hk)

/-- Settles O52: each move writes one register. -/
theorem peripheralMovesOnEndpoints : Obligations.PeripheralMovesOnEndpoints :=
  fun s i => ⟨fun setup h => step_of_endpoint_move h rfl (rxDoneValue_getLsbD setup s.epr[i.val]),
    fun h => step_of_endpoint_move h rfl (txDoneValue_getLsbD s.epr[i.val]),
    fun d h => step_of_endpoint_move h rfl (setStateValue_getLsbD d s.epr[i.val])⟩

/-! ## The peripheral's moves on the packet memory (R212 P4) -/

/-- P4b writes the byte count, the low ten bits. -/
theorem rxCountValue_getLsbD (c : BitVec Config.countWidth) (v : Halfword) (j : Fin 16) :
    (rxCountValue c v).getLsbD j.val = if j.val < 10 then c.getLsbD j.val else v.getLsbD j.val := by
  simp only [rxCountValue, BitVec.getLsbD_or, BitVec.getLsbD_and, BitVec.getLsbD_not, countMask_getLsbD,
    BitVec.getLsbD_setWidth]
  by_cases hcount : j.val < 10
  · simp [hcount]
  · simp [hcount, BitVec.getLsbD_of_ge c j.val (by simpa using hcount)]

theorem readCell_afterTurn (s : State) (a : Nat) : readCell (afterTurn s) a = readCell s a := rfl

/-- P4a writes one arena cell. -/
theorem periphMove_writeCell_of_arena {k : Nat} (hk : 64 ≤ k ∧ k < 512) (v : Halfword) (s : State) :
    periphMove (.writeCell k v) s = writeCell k v s := if_pos hk

/-- A WriteCell of any other cell changes nothing (log entry 14). -/
theorem periphMove_writeCell_of_not_arena {k : Nat} (hk : ¬ (64 ≤ k ∧ k < 512)) (v : Halfword) (s : State) :
    periphMove (.writeCell k v) s = s := if_neg hk

/-- The RX count field of an endpoint, as a number (R110). -/
theorem bdtCell_rxCount (e : Fin 8) : bdtCell e .rxCount = 8 * e.val + 6 :=
  congrArg (· + 6) (Nat.mul_comm e.val 8)

theorem periphMove_writeRxCount (e : Fin 8) (c : BitVec Config.countWidth) (s : State) :
    periphMove (.writeRxCount e c) s =
      writeCell (8 * e.val + 6) (rxCountValue c (readCell s (8 * e.val + 6))) s := by
  rw [← bdtCell_rxCount]
  rfl

/-- Settles O53: each move is one cell write or none. -/
theorem peripheralMovesOnPacketMemory : Obligations.PeripheralMovesOnPacketMemory := by
  refine fun s => ⟨fun k v h => ?_, fun e c h => ?_⟩
  · by_cases hk : 64 ≤ k ∧ k < 512
    · rw [step_of_peripheral h, periphMove_writeCell_of_arena hk]
      refine ⟨_, rfl, fun a => ?_, rfl⟩
      simp [readCell_writeCell hk.2, readCell_afterTurn, hk]
    · rw [step_of_peripheral h, periphMove_writeCell_of_not_arena hk]
      exact ⟨_, rfl, fun a => (if_neg fun ha => hk ha.2).symm, rfl⟩
  · have hread := readCell_writeCell (k := 8 * e.val + 6) (by omega)
      (rxCountValue c (readCell s (8 * e.val + 6))) (afterTurn s)
    rw [step_of_peripheral h, periphMove_writeRxCount]
    refine ⟨_, rfl, fun j => ?_, fun a ha => (hread a).trans (if_neg ha), rfl⟩
    exact (congrArg (·.getLsbD j.val) ((hread _).trans (if_pos rfl))).trans (rxCountValue_getLsbD c _ j)

/-! ## EP_ID and the flag CTR under the writes of ISTR (R31, R32, R212) -/

/-- EP_ID is read from the low byte of ISTR. -/
theorem epId_congr {v w : Halfword} (h : ∀ j : Fin 16, j.val < 8 → v.getLsbD j.val = w.getLsbD j.val) :
    epId v = epId w := by
  refine BitVec.eq_of_getLsbD_eq fun j hj => ?_
  simpa [epId, hj] using h ⟨j, by omega⟩ (by simp only; omega)

theorem epId_setIstrFlag (f : IstrFlag) (v : Halfword) : epId (setIstrFlag f v) = epId v := by
  refine epId_congr fun j hj => ?_
  have hne : j.val ≠ (flagBit f).toNat := (Nat.lt_of_lt_of_le hj (flagBit_ge f)).ne
  rw [setIstrFlag_getLsbD, decide_eq_false hne, Bool.false_or]

theorem epId_istrClear (v : Halfword) (f : IstrFlag) : epId (istrClear v (flagBit f)) = epId v := by
  refine epId_congr fun j hj => ?_
  have hne : j.val ≠ (flagBit f).toNat := (Nat.lt_of_lt_of_le hj (flagBit_ge f)).ne
  rw [istrClear_getLsbD, if_neg hne]

/-- P1 sets no flag but its own. -/
theorem flagSet_setIstrFlag_other (v : Halfword) {f g : IstrFlag} (h : g ≠ f) :
    flagSet (setIstrFlag f v) g = flagSet v g := by
  have hne : (flagBit g).toNat ≠ (flagBit f).toNat := by revert h; cases f <;> cases g <;> decide
  have hbit := setIstrFlag_getLsbD f v ⟨(flagBit g).toNat, (flagBit g).isLt⟩
  simpa [flagSet, hne] using hbit

/-- The clear step sets no flag. -/
theorem flagSet_of_istrClear {v : Halfword} {f g : IstrFlag} (h : flagSet (istrClear v (flagBit f)) g = true) :
    flagSet v g = true := by
  by_cases heq : g = f
  · subst heq
    rw [flagSet_istrClear_self] at h
    cases h
  · rwa [flagSet_istrClear_other v heq] at h

/-! ## Every step keeps EP_ID in range (R213 WB2, R246, decision D34) -/

/-- A step that leaves ISTR keeps it, if a CTR dispatch that runs after it has EP_ID in range. -/
theorem epIdNamesEndpoint_of_istr {s t : State} (h : EpIdNamesEndpoint s) (histr : t.istr = s.istr)
    (hsnapshot : t.fsm = .ctrEval ∨ t.fsm = .callWait → (epId t.snapv).toNat < 8) : EpIdNamesEndpoint t where
  live := by rw [histr]; exact h.live
  snapshot := hsnapshot

/-- A step that leaves ISTR, FSM and the snapshot keeps it. -/
theorem epIdNamesEndpoint_of_frame {s t : State} (h : EpIdNamesEndpoint s) (histr : t.istr = s.istr)
    (hfsm : t.fsm = s.fsm) (hsnapv : t.snapv = s.snapv) : EpIdNamesEndpoint t :=
  epIdNamesEndpoint_of_istr h histr (by rw [hfsm, hsnapv]; exact h.snapshot)

theorem epIdNamesEndpoint_powerOn (s : State) : EpIdNamesEndpoint (powerOn s) where
  live := by simp [flagSet]
  snapshot := by simp

/-- An activation that selects CTR latches the ISTR in which CTR is pending. -/
theorem epIdNamesEndpoint_activate (ctx : Ctx) {s : State} (h : EpIdNamesEndpoint s) :
    EpIdNamesEndpoint (activate ctx s) := by
  rcases activate_cases ctx s with ⟨-, e⟩ | ⟨hsel, e⟩ | ⟨_, -, -, -, e⟩ | ⟨-, e⟩ <;> rw [e]
  case inr.inl =>
    obtain ⟨-, hctr⟩ := select_eq_some hsel
    exact epIdNamesEndpoint_of_istr h rfl fun _ => h.live hctr
  all_goals exact epIdNamesEndpoint_of_istr h rfl (by simp)

theorem callHandler_snapv (s : State) : (callHandler s).snapv = s.snapv := by
  rcases callHandler_cases s with ⟨_, -, e⟩ | ⟨-, e⟩ <;> rw [e]

/-- The evaluate step leaves ISTR, and the snapshot where it calls the handler. -/
theorem epIdNamesEndpoint_evalStep {s : State} (h : EpIdNamesEndpoint s) (hfsm : s.fsm = .ctrEval) :
    EpIdNamesEndpoint (evalStep s) := by
  obtain ⟨-, -, -, histr, -⟩ := evalStep_frame s
  refine epIdNamesEndpoint_of_istr h histr ?_
  rcases evalStep_cases s with e | e | ⟨_, _, e⟩ <;> rw [e]
  · rw [callHandler_snapv]
    exact fun _ => h.snapshot (.inl hfsm)
  · simp
  · simp

/-- The clear step sets no flag and leaves EP_ID. -/
theorem epIdNamesEndpoint_clearStep {s : State} (h : EpIdNamesEndpoint s) : EpIdNamesEndpoint (clearStep s) := by
  rcases clearStep_cases s with ⟨f, hf, e⟩ | ⟨-, e⟩ <;> rw [e]
  · have hclr : s.clr = flagBit f := flagOfBit_eq_some.mp hf
    refine ⟨fun hctr => ?_, by simp⟩
    simp only [hclr, epId_istrClear] at hctr ⊢
    exact h.live (flagSet_of_istrClear hctr)
  · exact epIdNamesEndpoint_of_istr h rfl (by simp)

/-- A command leaves ISTR and the snapshot, faults, or activates a dispatch. -/
theorem epIdNamesEndpoint_exec {i : Instr} {s t : State} (h : EpIdNamesEndpoint s) (hexec : exec i s = .next t) :
    EpIdNamesEndpoint t := by
  rcases exec_cases hexec with ⟨_, _, rfl⟩ | ⟨_, rfl⟩ | ⟨_, _, rfl⟩ | ⟨_, _, rfl⟩ | ⟨_, _, rfl⟩ | rfl | ⟨-, rfl⟩
  · exact epIdNamesEndpoint_of_istr h rfl (by simp)
  case inr.inr.inr.inr.inr.inr => exact epIdNamesEndpoint_activate s.params.ctx h
  all_goals exact epIdNamesEndpoint_of_frame h rfl rfl rfl

/-- P1 under WB: CTR comes with EP_ID in range, and any other flag changes neither. -/
theorem epIdNamesEndpoint_setFlag {f : IstrFlag} {s : State} (h : EpIdNamesEndpoint s)
    (hwell : wellBehaved (.setFlag f) s) : EpIdNamesEndpoint (periphMove (.setFlag f) s) := by
  refine ⟨fun hctr => ?_, h.snapshot⟩
  simp only [periphMove, epId_setIstrFlag] at hctr ⊢
  by_cases hf : f = .ctr
  · subst hf
    obtain ⟨i, hi, -⟩ := hwell
    exact hi ▸ i.isLt
  · rw [flagSet_setIstrFlag_other s.istr (Ne.symm hf)] at hctr
    exact h.live hctr

/-- P2 under WB comes while CTR is not pending. -/
theorem epIdNamesEndpoint_setIdDir {b : Byte} {s : State} (h : EpIdNamesEndpoint s)
    (hwell : wellBehaved (.setIdDir b) s) : EpIdNamesEndpoint (periphMove (.setIdDir b) s) := by
  refine ⟨fun hctr => ?_, h.snapshot⟩
  have hclear : flagSet (setIdDir b s.istr) .ctr = false := (flagSet_setIdDir b s.istr .ctr).trans hwell
  exact absurd (hclear.symm.trans hctr) (by decide)

/-- A well-behaved move keeps it: only P1 and P2 write ISTR. -/
theorem epIdNamesEndpoint_periphMove {m : PeriphMove} {s : State} (h : EpIdNamesEndpoint s)
    (hwell : wellBehaved m s) : EpIdNamesEndpoint (periphMove m s) := by
  cases m with
  | setFlag => exact epIdNamesEndpoint_setFlag h hwell
  | setIdDir => exact epIdNamesEndpoint_setIdDir h hwell
  | rxDone | txDone | setState | writeRxCount => exact epIdNamesEndpoint_of_frame h rfl rfl rfl
  | writeCell k v =>
    simp only [periphMove]
    split
    · exact epIdNamesEndpoint_of_frame h rfl rfl rfl
    · exact h

theorem wellBehaved_of_next {s : State} {m : PeriphMove} (h : nextMoveWellBehaved s)
    (hhead : s.agenda.head? = some (.peripheral m)) : wellBehaved m s := by
  simpa only [nextMoveWellBehaved, hhead] using h

/-- Every step keeps it, under WB. -/
theorem step_keeps_epIdNamesEndpoint {s t : State} (hs : EpIdNamesEndpoint s) (hwell : nextMoveWellBehaved s)
    (h : step s = .next t) : EpIdNamesEndpoint t := by
  have hturn : EpIdNamesEndpoint (afterTurn s) := epIdNamesEndpoint_of_frame hs rfl rfl rfl
  have hconsume (n : Nat) : EpIdNamesEndpoint (consume n (afterTurn s)) :=
    epIdNamesEndpoint_of_frame hturn rfl rfl rfl
  rcases step_cases h with rfl | ⟨-, rfl⟩ | ⟨m, hm, rfl⟩ | ⟨-, rfl⟩ | ⟨-, rfl⟩ | ⟨-, rfl⟩ | ⟨hfsm, rfl⟩ |
    ⟨-, rfl⟩ | ⟨-, i, n, -, hexec⟩ | ⟨-, op, -, rfl⟩ | ⟨-, op, n, -, rfl⟩
  · exact hturn
  · exact epIdNamesEndpoint_powerOn (afterTurn s)
  · exact epIdNamesEndpoint_periphMove hturn (wellBehaved_of_next (s := s) hwell hm)
  · exact epIdNamesEndpoint_of_istr hturn rfl (by simp [handlerAnswer])
  · exact epIdNamesEndpoint_activate s.params.ctx hturn
  · exact epIdNamesEndpoint_of_istr hturn rfl (by simp [resetStep])
  · exact epIdNamesEndpoint_evalStep hturn hfsm
  · exact epIdNamesEndpoint_clearStep hturn
  · exact epIdNamesEndpoint_exec (hconsume n) hexec
  · exact epIdNamesEndpoint_of_istr hturn rfl (by simp)
  · exact epIdNamesEndpoint_of_istr hturn rfl (by simp)

/-! ## No evaluate step records EP_RANGE (R165, R246) -/

/-- The decision on the live register records CTR_NO_DIRECTION at most. -/
theorem decideCtr_records_no_epRange (e info : Halfword) (s : State) :
    (decideCtr e s).events ≠ s.events ++ [.fault .epRange info] := by
  unfold decideCtr
  split
  · split
    · rcases callHandler_cases s with ⟨_, -, h⟩ | ⟨-, h⟩ <;> simp [h]
    · simp
  · split <;> simp

/-- From an evaluate state no step of any agent records EP_RANGE, if EP_ID of the snapshot is in range. -/
theorem step_of_ctrEval_records_no_epRange {s t : State} (hsnapshot : (epId s.snapv).toNat < 8)
    (hfsm : s.fsm = .ctrEval) (h : step s = .next t) (info : Halfword) :
    t.events ≠ s.events ++ [.fault .epRange info] := by
  by_cases hpower : s.agenda.head? = some .powerOn
  · obtain rfl := Host.Outcome.next.inj ((step_of_turn hpower).symm.trans h)
    simp
  · rcases busy_step_cases (by simp [hfsm]) h hpower with rfl | ⟨m, -, rfl⟩ | ⟨hother, -⟩ | ⟨hother, -⟩ | ⟨-, rfl⟩ |
      ⟨hother, -⟩
    · simp
    · obtain ⟨-, -, -, -, -, -, -, -, -, hevents, -⟩ := periphMove_frame m (afterTurn s)
      simp [hevents]
    case inr.inr.inr.inr.inl =>
      rw [evalStep_of_lt (s := afterTurn s) hsnapshot]
      exact decideCtr_records_no_epRange _ info (afterTurn s)
    all_goals simp [hfsm] at hother

/-- Settles O54: the invariant, and what it gives in CTR_EVAL. -/
theorem wellBehavedEpIdStaysInRange : Obligations.WellBehavedEpIdStaysInRange :=
  fun _ _ hs hwell h => ⟨step_keeps_epIdNamesEndpoint hs hwell h,
    fun hfsm => step_of_ctrEval_records_no_epRange (hs.snapshot (.inl hfsm)) hfsm h⟩

end Sys2Proof.Machine
end

section
/-! SUPPORT. The reset and the hazards of 70_reset_and_hazards.md: the power-on reset (R231), a CTR left pending across
a bus reset (R240), and the bound on a dispatch (R247). -/

namespace Sys2Proof.Machine

/-! ## The power-on reset (R231, decision D29) -/

/-- Every cell is drawn again. -/
theorem readCell_powerOn (s : State) (a : Nat) :
    readCell (powerOn s) a = Config.drawCell (s.drawEpoch + 1) a := rfl

/-- But for the new draw, the power-on reset restores the reset state; the stream, the parameters and the agenda are not
the block's. -/
theorem powerOn_eq_reset (s : State) :
    { powerOn s with pma := [], drawEpoch := State.reset.drawEpoch } =
      { State.reset with stream := s.stream, params := s.params, agenda := s.agenda } := rfl

/-- Settles O56: the turn taken is the power-on reset, which asks nothing of the state it finds. -/
theorem powerOnResetsEverything : Obligations.PowerOnResetsEverything :=
  fun s hturn => ⟨_, step_of_turn hturn, readCell_powerOn (afterTurn s), powerOn_eq_reset (afterTurn s)⟩

/-! ## A CTR left pending across a bus reset (R240) -/

/-- What stands next after `n` words are consumed. -/
theorem pending_consume (n : Nat) (s : State) : pending (consume n s) = (pending s).drop n := by
  rw [pending, pending, List.drop_drop, consume_stream, consume_pos]
  rcases Nat.le_total (s.pos + n) s.stream.length with hle | hge
  · rw [Nat.min_eq_left hle]
  · rw [Nat.min_eq_right hge, List.drop_length, List.drop_eq_nil_of_le hge]

/-- IRQ_DISPATCH at the head of the stream is what the block reads. -/
theorem fetch_irqDispatch {s : State} {rest : List CmdWord} (h : pending s = encode .irqDispatch ++ rest) :
    fetch s = .instr .irqDispatch 1 :=
  (fetch_eq_decode h).trans (decodeInvertsEncode .irqDispatch rest rfl)

/-- `s` after a whole dispatch of RESET whose command had `n` words (R164, R170). -/
def busReset (n : Nat) (s : State) : State :=
  { resetAll (activated .resetAct n s) with
    clr := flagBit .reset
    istr := istrClear s.istr (flagBit .reset)
    events := s.events ++ [.cleared .reset]
    fsm := .idle }

/-- A dispatch of RESET run to its end: activation, reset step, clear step. -/
theorem runSteps_of_busReset {s : State} {n : Nat} (hidle : s.fsm = .idle) (hagenda : s.agenda = [])
    (hf : fetch s = .instr .irqDispatch n) (hreset : flagSet s.istr .reset = true) (k : Nat) :
    runSteps (k + 3) s = runSteps k (busReset n s) := by
  have hclear : clearStep (resetStep (activated .resetAct n s)) = busReset n s := clearStep_of_flagBit rfl
  rw [runSteps_of_reset_pending hidle hagenda hf hreset (k + 1), ← hclear]
  exact runSteps_of_blockStep (resetStep (activated .resetAct n s)) hagenda (blockStep_of_clear rfl) k

theorem busReset_epr (n : Nat) (s : State) (i : Fin 8) : (busReset n s).epr[i.val] = 0 :=
  readEpr_resetAll (activated .resetAct n s) i

theorem busReset_flagSet_reset (n : Nat) (s : State) : flagSet (busReset n s).istr .reset = false :=
  flagSet_istrClear_self s.istr .reset

theorem busReset_flagSet_ctr (n : Nat) (s : State) : flagSet (busReset n s).istr .ctr = flagSet s.istr .ctr :=
  flagSet_istrClear_other s.istr (by decide)

theorem busReset_epId (n : Nat) (s : State) : epId (busReset n s).istr = epId s.istr :=
  epId_istrClear s.istr .reset

theorem pending_busReset (n : Nat) (s : State) : pending (busReset n s) = (pending s).drop n := pending_consume n s

/-- A dispatch of CTR whose endpoint register is at its reset value finds no direction (R166, R172). -/
theorem runSteps_of_ctr_unconfigured {s : State} {n : Nat} (hidle : s.fsm = .idle) (hagenda : s.agenda = [])
    (hf : fetch s = .instr .irqDispatch n) (hreset : flagSet s.istr .reset = false)
    (hctr : flagSet s.istr .ctr = true) (h : (epId s.istr).toNat < 8) (hepr : s.epr[(epId s.istr).toNat] = 0) :
    runSteps 2 s =
      .next (faulted 0x21 .ctrNoDirection (BitVec.ofNat 16 (epId s.istr).toNat) (activated .ctrEval n s)) := by
  rw [runSteps_of_ctr_pending hidle hagenda hf hreset hctr h 0, hepr, decideCtr_of_no_direction rfl (.inl rfl)]
  rfl

/-- Settles O29: the bus reset leaves CTR pending and clears the register that EP_ID names, which the second dispatch
then reads. -/
theorem ctrPendingAcrossBusResetTraps : Obligations.CtrPendingAcrossBusResetTraps := by
  intro s hidle hagenda hpending hreset hctr hep
  have hfirst := runSteps_of_busReset hidle hagenda (fetch_irqDispatch hpending) hreset 2
  have hahead : pending (busReset 1 s) = encode .irqDispatch ++ [] := by
    rw [pending_busReset, hpending]
    rfl
  have hctr' : flagSet (busReset 1 s).istr .ctr = true := (busReset_flagSet_ctr 1 s).trans hctr
  have hep' : (epId (busReset 1 s).istr).toNat < 8 := by rwa [busReset_epId]
  have hsecond := runSteps_of_ctr_unconfigured (s := busReset 1 s) rfl hagenda (fetch_irqDispatch hahead)
    (busReset_flagSet_reset 1 s) hctr' hep' (busReset_epr 1 s ⟨_, hep'⟩)
  rw [busReset_epId] at hsecond
  exact ⟨_, hfirst.trans hsecond, rfl, rfl, rfl, hctr', busReset_flagSet_reset 1 s, busReset_epr 1 s,
    List.append_assoc s.events _ _⟩

/-! ## The bound on a dispatch (R247) -/

/-- Within `n` steps `s` is in IDLE or FAULT, with the stream not moved. -/
def endsWithin (n : Nat) (s : State) : Prop :=
  ∃ k ≤ n, ∃ t, runSteps k s = .next t ∧ (t.fsm = .idle ∨ t.fsm = .fault) ∧ t.pos = s.pos

theorem endsWithin_zero {s : State} (h : s.fsm = .idle ∨ s.fsm = .fault) : endsWithin 0 s :=
  ⟨0, le_rfl, s, rfl, h, rfl⟩

theorem endsWithin_mono {m n : Nat} {s : State} (hmn : m ≤ n) : endsWithin m s → endsWithin n s :=
  fun ⟨k, hk, hend⟩ => ⟨k, hk.trans hmn, hend⟩

/-- A first step that keeps the position adds one to the bound. -/
theorem endsWithin_succ {n : Nat} {s t : State} (hrun : ∀ k, runSteps (k + 1) s = runSteps k t) (hpos : t.pos = s.pos)
    (h : endsWithin n t) : endsWithin (n + 1) s := by
  obtain ⟨k, hk, u, hu, hend, hupos⟩ := h
  exact ⟨k + 1, Nat.succ_le_succ hk, u, (hrun k).trans hu, hend, hupos.trans hpos⟩

/-- From CLEAR: the clear step. -/
theorem endsWithin_of_clear {s : State} (hagenda : s.agenda = []) (hfsm : s.fsm = .clear) : endsWithin 1 s := by
  obtain ⟨hpos, -⟩ := commandsHeld_clearStep s
  exact endsWithin_succ (runSteps_of_blockStep s hagenda (blockStep_of_clear hfsm)) hpos
    (endsWithin_zero (.inl (clearStep_fsm s)))

/-- From RESET_ACT: the reset step, then CLEAR. -/
theorem endsWithin_of_resetAct {s : State} (hagenda : s.agenda = []) (hfsm : s.fsm = .resetAct) : endsWithin 2 s :=
  endsWithin_succ (runSteps_of_blockStep s hagenda (blockStep_of_resetAct hfsm)) rfl
    (endsWithin_of_clear (s := resetStep s) hagenda rfl)

/-- From CALL_WAIT: the handler's answer, then CLEAR. -/
theorem endsWithin_of_callWait {s : State} (hagenda : s.agenda = []) (hfsm : s.fsm = .callWait) : endsWithin 2 s :=
  endsWithin_succ (runSteps_of_callWait s hagenda hfsm) rfl (endsWithin_of_clear (s := handlerAnswer s) hagenda rfl)

theorem callHandler_agenda (s : State) : (callHandler s).agenda = s.agenda := by
  rcases callHandler_cases s with ⟨_, -, e⟩ | ⟨-, e⟩ <;> rw [e]

/-- From CTR_EVAL: the evaluate step, then CALL_WAIT, CLEAR or FAULT. -/
theorem endsWithin_of_ctrEval {s : State} (hagenda : s.agenda = []) (hfsm : s.fsm = .ctrEval) : endsWithin 3 s := by
  obtain ⟨hpos, -⟩ := commandsHeld_evalStep s
  refine endsWithin_succ (runSteps_of_blockStep s hagenda (blockStep_of_ctrEval hfsm)) hpos ?_
  rcases evalStep_cases s with e | e | ⟨c, info, e⟩ <;> rw [e]
  · exact endsWithin_of_callWait ((callHandler_agenda s).trans hagenda) (callHandler_fsm s)
  · exact endsWithin_mono (by decide) (endsWithin_of_clear (s := toClear (flagBit .ctr) s) hagenda rfl)
  · exact endsWithin_mono (by decide) (endsWithin_zero (.inr rfl))

/-- Settles O30, by the dispatcher's state; the longest way is from CTR_EVAL through the handler. -/
theorem dispatchEndsWithinThreeSteps : Obligations.DispatchEndsWithinThreeSteps := by
  intro s hidle hfault hagenda
  suffices hend : endsWithin 3 s from hend
  cases hfsm : s.fsm with
  | idle => exact absurd hfsm hidle
  | resetAct => exact endsWithin_mono (by decide) (endsWithin_of_resetAct hagenda hfsm)
  | ctrEval => exact endsWithin_of_ctrEval hagenda hfsm
  | callWait => exact endsWithin_mono (by decide) (endsWithin_of_callWait hagenda hfsm)
  | clear => exact endsWithin_mono (by decide) (endsWithin_of_clear hagenda hfsm)
  | fault => exact absurd hfsm hfault

end Sys2Proof.Machine
end
